-- ==== Sys2Proof/Word.lean ====
section
/-! DEFINITION. The word types of the block (spec/00_scope.md R8, R14, R16; spec/10_state.md R31 to R35).  A FIELD
WORD, the integer a W word holds when it is used as a field source, is a plain natural number in the arithmetic rules,
which are stated on unbounded integers (R14, R16). -/

namespace Sys2Proof

/-- One word of the W register file: `WBITS` = 384 bits (R8, R31). -/
abbrev Word := BitVec 384

/-- One scalar register: `SBITS` = 1024 bits (R8, R33). -/
abbrev Scalar := BitVec 1024

/-- One command, and one datum of the host bus: `CMDBITS` = `BUSBITS` = 32 bits (R8, R34, R70). -/
abbrev Word32 := BitVec 32

/-- A base index into W, an 8-bit command field used unsigned (R100, R102). -/
abbrev WIdx := BitVec 8

/-- A command-memory address, the width of the program counter: `PCBITS` = 8 (R8, R35). -/
abbrev CmdAddr := BitVec 8

/-- A scalar register index, the field rs2[1:0] (R260). -/
abbrev SIdx := BitVec 2

/-- A byte offset in the 65536-byte host window (R70). -/
abbrev Offset := BitVec 16

end Sys2Proof
end

