-- ==== Sys2Proof/Syntax.lean ====
section
/-! DEFINITION. The commands of CORE-CMD 1.0, one constructor per row of the opcode table
(spec/30_encoding.md R103), with the operand classes of R101.  A `WIdx` operand is a base index into W; how many
words it names is the operand table of Machine/Operands.lean. -/

namespace Sys2Proof

/-- The constants LDC can name, the selector `k` (R135). -/
inductive LdcConst where
  | zero | one | r2 | g2zero | g2gen | b2
  deriving DecidableEq, Repr

/-- The inversion engine's mode, the field `mode` (R149): 0 FERMAT, 1 EGCD. -/
inductive InvMode where
  | fermat | egcd
  deriving DecidableEq, Repr

/-- A command with its operands (R103).  `rd` is a destination base, `rs1` and `rs2` source bases, `n` MOV's
word count, `k` LDC's constant, `mode` the inversion mode and `k` of `fexp`, `g2smul`, `g2smulw` the scalar register. -/
inductive Instr where
  | nop
  | halt
  | mov (rd rs1 : WIdx) (n : BitVec 8)
  | ldc (rd : WIdx) (k : LdcConst)
  | fadd (rd rs1 rs2 : WIdx)
  | fsub (rd rs1 rs2 : WIdx)
  | fneg (rd rs1 : WIdx)
  | fdbl (rd rs1 : WIdx)
  | fmul (rd rs1 rs2 : WIdx)
  | fsqr (rd rs1 : WIdx)
  | finv (rd rs1 : WIdx) (mode : InvMode)
  | fexp (rd rs1 : WIdx) (k : SIdx)
  | tomont (rd rs1 : WIdx)
  | frommont (rd rs1 : WIdx)
  | f2add (rd rs1 rs2 : WIdx)
  | f2sub (rd rs1 rs2 : WIdx)
  | f2neg (rd rs1 : WIdx)
  | f2dbl (rd rs1 : WIdx)
  | f2mul (rd rs1 rs2 : WIdx)
  | f2sqr (rd rs1 : WIdx)
  | f2inv (rd rs1 : WIdx) (mode : InvMode)
  | f2mulnr (rd rs1 : WIdx)
  | f2conj (rd rs1 : WIdx)
  | f6add (rd rs1 rs2 : WIdx)
  | f6sub (rd rs1 rs2 : WIdx)
  | f6neg (rd rs1 : WIdx)
  | f6mul (rd rs1 rs2 : WIdx)
  | f6mul01 (rd rs1 rs2 : WIdx)
  | f6mul1 (rd rs1 rs2 : WIdx)
  | f6sqr (rd rs1 : WIdx)
  | f6inv (rd rs1 : WIdx) (mode : InvMode)
  | f6mulnr (rd rs1 : WIdx)
  | f12add (rd rs1 rs2 : WIdx)
  | f12sub (rd rs1 rs2 : WIdx)
  | f12mul (rd rs1 rs2 : WIdx)
  | f12sqr (rd rs1 : WIdx)
  | f12mul014 (rd rs1 rs2 : WIdx)
  | f12inv (rd rs1 : WIdx) (mode : InvMode)
  | f12conj (rd rs1 : WIdx)
  | g2add (rd rs1 rs2 : WIdx)
  | g2addm (rd rs1 rs2 : WIdx)
  | g2dbl (rd rs1 : WIdx)
  | g2neg (rd rs1 : WIdx)
  | g2sub (rd rs1 rs2 : WIdx)
  | g2smul (rd rs1 : WIdx) (k : SIdx)
  | g2smulw (rd rs1 : WIdx) (k : SIdx)
  deriving DecidableEq, Repr

end Sys2Proof
end

