-- ==== Sys2Proof/WellFormed.lean ====
section
/-! DEFINITION. Which terms of `Instr` are commands (spec/30_encoding.md R101).  Every field class but one is
already exact in the types of Syntax.lean (`k`, `mode` and `s` cannot be outside their legal values); what is left to
check is MOV's count.  The range check `base + size ≤ 256` is NOT here: a command that fails it is a decoded command
and ends the run with OPERAND_RANGE (spec/60_exceptions.md R303). -/

namespace Sys2Proof

/-- The legal values of a MOV count: 1 to 12 (R101, R134). -/
def movCountOk (n : BitVec 8) : Bool := decide (1 ≤ n.toNat ∧ n.toNat ≤ 12)

/-- A term is a command when its immediates are legal (R101). -/
def Instr.wellFormed : Instr → Bool
  | .mov _ _ n => movCountOk n
  | .nop | .halt | .ldc .. | .fadd .. | .fsub .. | .fneg .. | .fdbl .. | .fmul .. | .fsqr .. | .finv ..
  | .fexp .. | .tomont .. | .frommont .. | .f2add .. | .f2sub .. | .f2neg .. | .f2dbl .. | .f2mul ..
  | .f2sqr .. | .f2inv .. | .f2mulnr .. | .f2conj .. | .f6add .. | .f6sub .. | .f6neg .. | .f6mul ..
  | .f6mul01 .. | .f6mul1 .. | .f6sqr .. | .f6inv .. | .f6mulnr .. | .f12add .. | .f12sub .. | .f12mul ..
  | .f12sqr .. | .f12mul014 .. | .f12inv .. | .f12conj .. | .g2add .. | .g2addm .. | .g2dbl .. | .g2neg ..
  | .g2sub .. | .g2smul .. | .g2smulw .. => true

end Sys2Proof
end

