-- ==== Sys2Proof/Decode.lean ====
section
/-! DEFINITION. Decoding a command word (spec/30_encoding.md R100 to R108) and, after it, the encoder.  One 32-bit
format, no other lengths (R100, R107). -/

namespace Sys2Proof

/-- Why a word is no command (R108): its opcode is not in the table of R103, or the opcode is defined and a reserved
field or an immediate is not legal (R104). -/
inductive DecodeError where
  | illegalOpcode
  | reservedField
  deriving DecidableEq, Repr

/-- The fields of the one format laid out as R100 gives them: op[31:24] rd[23:16] rs1[15:8] rs2[7:0]. -/
def packFields (op rd rs1 rs2 : BitVec 8) : Word32 := op ++ rd ++ rs1 ++ rs2

/-- Field `op` (R100). -/
def opOf (w : Word32) : BitVec 8 := w.extractLsb' 24 8

/-- Field `rd` (R100). -/
def rdOf (w : Word32) : BitVec 8 := w.extractLsb' 16 8

/-- Field `rs1` (R100). -/
def rs1Of (w : Word32) : BitVec 8 := w.extractLsb' 8 8

/-- Field `rs2` (R100). -/
def rs2Of (w : Word32) : BitVec 8 := w.extractLsb' 0 8

/-- The code of an LDC constant (R135). -/
def LdcConst.code : LdcConst → BitVec 8
  | .zero => 0 | .one => 1 | .r2 => 2 | .g2zero => 3 | .g2gen => 4 | .b2 => 5

/-- The LDC constant a selector names; none for k > 5 (R101, R135). -/
def LdcConst.ofCode (k : BitVec 8) : Option LdcConst :=
  match k.toNat with
  | 0 => some .zero
  | 1 => some .one
  | 2 => some .r2
  | 3 => some .g2zero
  | 4 => some .g2gen
  | 5 => some .b2
  | _ => none

/-- The code of an inversion mode (R149). -/
def InvMode.code : InvMode → BitVec 8
  | .fermat => 0 | .egcd => 1

/-- The mode in bit 0 of rs2, whose upper seven bits the mask has found to be 0 (R104, R149). -/
def InvMode.ofField (rs2 : BitVec 8) : InvMode := if rs2.getLsbD 0 then .egcd else .fermat

/-- The scalar index rs2[1:0], whose upper six bits the mask has found to be 0 (R104, R260). -/
def scalarOfField (rs2 : BitVec 8) : SIdx := rs2.extractLsb' 0 2

/-- A scalar index as the field rs2 (R260). -/
def scalarCode (k : SIdx) : BitVec 8 := k.setWidth 8

/-- The rows of R104: how a command uses its fields, with the command the fields make. -/
inductive Form where
  | noOperands (i : Instr)
  | threeW (c : WIdx → WIdx → WIdx → Instr)
  | twoW (c : WIdx → WIdx → Instr)
  | withMode (c : WIdx → WIdx → InvMode → Instr)
  | withScalar (c : WIdx → WIdx → SIdx → Instr)
  | movCount
  | ldcSelector

/-- The mask column of R104. -/
def Form.mask : Form → Word32
  | .noOperands _ => 0xFFFFFFFF#32
  | .threeW _ => 0xFF000000#32
  | .twoW _ => 0xFF0000FF#32
  | .withMode _ => 0xFF0000FE#32
  | .withScalar _ => 0xFF0000FC#32
  | .movCount => 0xFF000000#32
  | .ldcSelector => 0xFF00FF00#32

/-- The command that the fields make once the mask has matched; none where MOV's count or LDC's selector is outside
its legal values (R108). -/
def Form.build (f : Form) (rd rs1 rs2 : BitVec 8) : Option Instr :=
  match f with
  | .noOperands i => some i
  | .threeW c => some (c rd rs1 rs2)
  | .twoW c => some (c rd rs1)
  | .withMode c => some (c rd rs1 (InvMode.ofField rs2))
  | .withScalar c => some (c rd rs1 (scalarOfField rs2))
  | .movCount => if movCountOk rs2 then some (.mov rd rs1 rs2) else none
  | .ldcSelector => (LdcConst.ofCode rs2).map (.ldc rd)

/-- The opcode map of R103; every value that is not in it is illegal (R106). -/
def formOf (op : BitVec 8) : Option Form :=
  match op.toNat with
  | 0x00 => some (.noOperands .nop)
  | 0x01 => some (.noOperands .halt)
  | 0x02 => some .movCount
  | 0x03 => some .ldcSelector
  | 0x10 => some (.threeW .fadd)
  | 0x11 => some (.threeW .fsub)
  | 0x12 => some (.twoW .fneg)
  | 0x13 => some (.twoW .fdbl)
  | 0x14 => some (.threeW .fmul)
  | 0x15 => some (.twoW .fsqr)
  | 0x16 => some (.withMode .finv)
  | 0x17 => some (.withScalar .fexp)
  | 0x18 => some (.twoW .tomont)
  | 0x19 => some (.twoW .frommont)
  | 0x20 => some (.threeW .f2add)
  | 0x21 => some (.threeW .f2sub)
  | 0x22 => some (.twoW .f2neg)
  | 0x23 => some (.twoW .f2dbl)
  | 0x24 => some (.threeW .f2mul)
  | 0x25 => some (.twoW .f2sqr)
  | 0x26 => some (.withMode .f2inv)
  | 0x27 => some (.twoW .f2mulnr)
  | 0x28 => some (.twoW .f2conj)
  | 0x30 => some (.threeW .f6add)
  | 0x31 => some (.threeW .f6sub)
  | 0x32 => some (.twoW .f6neg)
  | 0x34 => some (.threeW .f6mul)
  | 0x35 => some (.threeW .f6mul01)
  | 0x36 => some (.threeW .f6mul1)
  | 0x37 => some (.twoW .f6sqr)
  | 0x38 => some (.withMode .f6inv)
  | 0x39 => some (.twoW .f6mulnr)
  | 0x40 => some (.threeW .f12add)
  | 0x41 => some (.threeW .f12sub)
  | 0x44 => some (.threeW .f12mul)
  | 0x45 => some (.twoW .f12sqr)
  | 0x46 => some (.threeW .f12mul014)
  | 0x48 => some (.withMode .f12inv)
  | 0x49 => some (.twoW .f12conj)
  | 0x50 => some (.threeW .g2add)
  | 0x51 => some (.threeW .g2addm)
  | 0x52 => some (.twoW .g2dbl)
  | 0x53 => some (.twoW .g2neg)
  | 0x54 => some (.threeW .g2sub)
  | 0x58 => some (.withScalar .g2smul)
  | 0x59 => some (.withScalar .g2smulw)
  | _ => none

/-- Decoding, a total function of the 32-bit word (R108): the opcode first, then the mask of R104, then the legal
values of MOV's and LDC's immediates. -/
def decode (w : Word32) : Except DecodeError Instr :=
  match formOf (opOf w) with
  | none => .error .illegalOpcode
  | some f =>
    if w &&& f.mask = packFields (opOf w) 0 0 0 then
      match f.build (rdOf w) (rs1Of w) (rs2Of w) with
      | some i => .ok i
      | none => .error .reservedField
    else .error .reservedField

/-- The opcode of a command (R103). -/
def Instr.opcode : Instr → BitVec 8
  | .nop => 0x00
  | .halt => 0x01
  | .mov .. => 0x02
  | .ldc .. => 0x03
  | .fadd .. => 0x10
  | .fsub .. => 0x11
  | .fneg .. => 0x12
  | .fdbl .. => 0x13
  | .fmul .. => 0x14
  | .fsqr .. => 0x15
  | .finv .. => 0x16
  | .fexp .. => 0x17
  | .tomont .. => 0x18
  | .frommont .. => 0x19
  | .f2add .. => 0x20
  | .f2sub .. => 0x21
  | .f2neg .. => 0x22
  | .f2dbl .. => 0x23
  | .f2mul .. => 0x24
  | .f2sqr .. => 0x25
  | .f2inv .. => 0x26
  | .f2mulnr .. => 0x27
  | .f2conj .. => 0x28
  | .f6add .. => 0x30
  | .f6sub .. => 0x31
  | .f6neg .. => 0x32
  | .f6mul .. => 0x34
  | .f6mul01 .. => 0x35
  | .f6mul1 .. => 0x36
  | .f6sqr .. => 0x37
  | .f6inv .. => 0x38
  | .f6mulnr .. => 0x39
  | .f12add .. => 0x40
  | .f12sub .. => 0x41
  | .f12mul .. => 0x44
  | .f12sqr .. => 0x45
  | .f12mul014 .. => 0x46
  | .f12inv .. => 0x48
  | .f12conj .. => 0x49
  | .g2add .. => 0x50
  | .g2addm .. => 0x51
  | .g2dbl .. => 0x52
  | .g2neg .. => 0x53
  | .g2sub .. => 0x54
  | .g2smul .. => 0x58
  | .g2smulw .. => 0x59

/-- The word of a command: `op << 24 | rd << 16 | rs1 << 8 | rs2`, unused fields 0 (R100, R101, R111). -/
def encode (i : Instr) : Word32 :=
  match i with
  | .nop => packFields i.opcode 0 0 0
  | .halt => packFields i.opcode 0 0 0
  | .mov rd rs1 n => packFields i.opcode rd rs1 n
  | .ldc rd k => packFields i.opcode rd 0 k.code
  | .fadd rd rs1 rs2 => packFields i.opcode rd rs1 rs2
  | .fsub rd rs1 rs2 => packFields i.opcode rd rs1 rs2
  | .fneg rd rs1 => packFields i.opcode rd rs1 0
  | .fdbl rd rs1 => packFields i.opcode rd rs1 0
  | .fmul rd rs1 rs2 => packFields i.opcode rd rs1 rs2
  | .fsqr rd rs1 => packFields i.opcode rd rs1 0
  | .finv rd rs1 mode => packFields i.opcode rd rs1 mode.code
  | .fexp rd rs1 k => packFields i.opcode rd rs1 (scalarCode k)
  | .tomont rd rs1 => packFields i.opcode rd rs1 0
  | .frommont rd rs1 => packFields i.opcode rd rs1 0
  | .f2add rd rs1 rs2 => packFields i.opcode rd rs1 rs2
  | .f2sub rd rs1 rs2 => packFields i.opcode rd rs1 rs2
  | .f2neg rd rs1 => packFields i.opcode rd rs1 0
  | .f2dbl rd rs1 => packFields i.opcode rd rs1 0
  | .f2mul rd rs1 rs2 => packFields i.opcode rd rs1 rs2
  | .f2sqr rd rs1 => packFields i.opcode rd rs1 0
  | .f2inv rd rs1 mode => packFields i.opcode rd rs1 mode.code
  | .f2mulnr rd rs1 => packFields i.opcode rd rs1 0
  | .f2conj rd rs1 => packFields i.opcode rd rs1 0
  | .f6add rd rs1 rs2 => packFields i.opcode rd rs1 rs2
  | .f6sub rd rs1 rs2 => packFields i.opcode rd rs1 rs2
  | .f6neg rd rs1 => packFields i.opcode rd rs1 0
  | .f6mul rd rs1 rs2 => packFields i.opcode rd rs1 rs2
  | .f6mul01 rd rs1 rs2 => packFields i.opcode rd rs1 rs2
  | .f6mul1 rd rs1 rs2 => packFields i.opcode rd rs1 rs2
  | .f6sqr rd rs1 => packFields i.opcode rd rs1 0
  | .f6inv rd rs1 mode => packFields i.opcode rd rs1 mode.code
  | .f6mulnr rd rs1 => packFields i.opcode rd rs1 0
  | .f12add rd rs1 rs2 => packFields i.opcode rd rs1 rs2
  | .f12sub rd rs1 rs2 => packFields i.opcode rd rs1 rs2
  | .f12mul rd rs1 rs2 => packFields i.opcode rd rs1 rs2
  | .f12sqr rd rs1 => packFields i.opcode rd rs1 0
  | .f12mul014 rd rs1 rs2 => packFields i.opcode rd rs1 rs2
  | .f12inv rd rs1 mode => packFields i.opcode rd rs1 mode.code
  | .f12conj rd rs1 => packFields i.opcode rd rs1 0
  | .g2add rd rs1 rs2 => packFields i.opcode rd rs1 rs2
  | .g2addm rd rs1 rs2 => packFields i.opcode rd rs1 rs2
  | .g2dbl rd rs1 => packFields i.opcode rd rs1 0
  | .g2neg rd rs1 => packFields i.opcode rd rs1 0
  | .g2sub rd rs1 rs2 => packFields i.opcode rd rs1 rs2
  | .g2smul rd rs1 k => packFields i.opcode rd rs1 (scalarCode k)
  | .g2smulw rd rs1 k => packFields i.opcode rd rs1 (scalarCode k)

/-- The instruction this decoder reads from a table word: one 32-bit command word, so the bits from `nbits` up are 0
and `w` is the word itself (spec/opcode_table.json; R100). -/
def decodeTableWord (nbits w : Nat) : Option Instr :=
  match decode (BitVec.ofNat 32 (w % 2 ^ nbits)) with
  | .ok i => some i
  | .error _ => none

end Sys2Proof
end

