-- ==== Sys2Proof/Config.lean ====
section
/-! DEFINITION. What is fixed for this hardware and is not state (spec/10_state.md R36, R52): the parameters of
spec/00_scope.md R8 to R13 and the constant ROM.  The block leaves no command result open, so this file holds no
free value; every number below is the spec's own literal. -/

namespace Sys2Proof.Config

/-- The prime modulus p (R9). -/
def p : Nat :=
  0x1a0111ea397fe69a4b1ba7b6434bacd764774b84f38512bf6730d2a0f6b0f6241eabfffeb153ffffb9feffffffffaaab

/-- The prime order r of the G2 subgroup (R10).  No command uses it. -/
def r : Nat := 0x73eda753299d7d483339d80809a1d80553bda402fffe5bfeffffffff00000001

/-- The Montgomery radix Rm = 2^384 (R8, R16). -/
def rm : Nat := 2 ^ 384

/-- ONE = 2^384 mod p, the word of the field element 1 (R16, R36). -/
def one : Nat :=
  0x15f65ec3fa80e4935c071a97a256ec6d77ce5853705257455f48985753c758baebf4000bc40c0002760900000002fffd

/-- R2 = 2^768 mod p (R36). -/
def r2 : Nat :=
  0x11988fe592cae3aa9a793e85b519952d67eb88a9939d83c08de5476c4c95b6d50a76e6a609d104f1f4df1f341c341746

/-- RINV = 2^-384 mod p (R36). -/
def rinv : Nat :=
  0x14fec701e8fb0ce9ed5e64273c4f538b1797ab1458a88de9343ea97914956dc87fe11274d898fafbf4d38259380b4820

/-- R3 = 2^1152 mod p, used by the EGCD mode of the inversion engine (R36, R149). -/
def r3 : Nat :=
  0x0aa6346091755d4d2512d4356572472834c04e5e921e17619a53352a615e29dd315f831e03a7adf8ed48ac6bd94ca1e0

/-- p' = -p^-1 mod 2^64, used by the multiplier's datapath (R36, R145). -/
def pPrime : Nat := 0x89f3fffcfffcfffd

/-- M(4), both words of the constant b2 = 4 + 4u (R13, R36). -/
def m4 : Nat :=
  0x09d645513d83de7e8ec9733bbf78ab2fb1d37ebee6ba24d7478fe97a6b0a807f53cc0032fc34000aaa270000000cfff3

/-- M(gx.c0), the first word of G2GEN (R135). -/
def gx0 : Nat :=
  0x058191924350bcd76f67b7631863366b9894999d1a3caee9a1a893b53e2ae580b3f5fb2687b4961af5f28fa202940a10

/-- M(gx.c1) (R135). -/
def gx1 : Nat :=
  0x11922a097360edf3c2b6ed0ef21585471b1ab6cc8541b3673bb17e18e2867806aaa0c59dbccd60c3a5a9c0759e23f606

/-- M(gy.c0) (R135). -/
def gy0 : Nat :=
  0x0083fd8e7e80dae507d3a975f0ef25a2bbefb5e96e0d495fe7e6856caa0a635a597cfa1f5e369c5a4c730af860494c4a

/-- M(gy.c1) (R135). -/
def gy1 : Nat :=
  0x0b2bc2a163de1bf2e7175850a43ccaed79495c4ec93da33a86adac6a3be4eba018aa270a2b1461dcadc0fc92df64b05d

/-- The generator's coordinates as field values, before the map M (R13): x.c0. -/
def genX0 : Nat :=
  0x024aa2b2f08f0a91260805272dc51051c6e47ad4fa403b02b4510b647ae3d1770bac0326a805bbefd48056c8c121bdb8

/-- The generator's x.c1 as a field value (R13). -/
def genX1 : Nat :=
  0x13e02b6052719f607dacd3a088274f65596bd0d09920b61ab5da61bbdc7f5049334cf11213945d57e5ac7d055d042b7e

/-- The generator's y.c0 as a field value (R13). -/
def genY0 : Nat :=
  0x0ce5d527727d6e118cc9cdc6da2e351aadfd9baa8cbdd3a76d429a695160d12c923ac9cc3baca289e193548608b82801

/-- The generator's y.c1 as a field value (R13). -/
def genY1 : Nat :=
  0x0606c4a02ea734cc32acd2b02bc28b99cb3e287e85a763af267492ab572e99ab3f370d275cec1da1aaa9075ff05f79be

/-- The fixed value of the ID register (R40). -/
def idValue : Word32 := 0xB1512381#32

/-- The fixed value of the VERSION register (R41). -/
def versionValue : Word32 := 0x00010000#32

/-- `NW`, the number of W words (R8). -/
def nw : Nat := 256

/-- The width w of the wNAF recoding (R8, R262). -/
def wnafWidth : Nat := 6

end Sys2Proof.Config
end

