-- ==== Sys2Proof/Machine/State.lean ====
section
/-! DEFINITION. The state of the block as plain data (spec/10_state.md R30 to R51), the reasons a step can stop, and
the state after reset (R51; spec/70_reset_and_hazards.md R340). -/

namespace Sys2Proof.Machine

/-- The error codes held in STATUS.ERRCODE (spec/60_exceptions.md R301).  Codes 7 to 15 are never written (R301), so
they have no constructor. -/
inductive ErrCode where
  | none | illegalOpcode | reservedField | operandRange | noncanonical | pcOverflow | aborted
  deriving DecidableEq, Repr

/-- One thing that happens next at the block's edge (R82, item 5; R52): the core takes a step, the host makes a
transaction of `bytes` bytes at a window offset (R70, R72), or the reset input is pulsed (R340). -/
inductive Action where
  | core
  | read (bytes : Nat) (off : Offset)
  | write (bytes : Nat) (off : Offset) (v : Word32)
  | reset
  deriving DecidableEq, Repr

/-- A storage location that R343 speaks of: a W word, a scalar register or a command-memory entry. -/
inductive Storage where
  | w (i : Nat)
  | s (k : Nat)
  | cmd (a : Nat)
  deriving DecidableEq, Repr

/-- The command memory: (address, word) pairs in one canonical form, addresses strictly rising (`Memory.wf` in
Ops.lean).  The unit is the spec's smallest addressable one, a whole 32-bit command (R34, R75); an address that is
not listed has not been written since reset and has NO value (spec/70_reset_and_hazards.md R343). -/
abbrev Memory := List (Nat × Word32)

/-- The whole state (R30), and below it the model's own four fields. -/
structure State where
  /-- The W register file, 256 words of 384 bits (R31). -/
  w : Vector Word 256
  /-- The scalar registers, 4 of 1024 bits (R33). -/
  sc : Vector Scalar 4
  /-- The command memory, 256 entries of 32 bits (R34). -/
  cmd : Memory
  /-- The program counter (R35), read through PC (R45). -/
  pc : CmdAddr
  /-- STATUS.BUSY (R42). -/
  busy : Bool
  /-- STATUS.DONE (R42). -/
  done : Bool
  /-- STATUS.ACCERR (R42). -/
  accerr : Bool
  /-- STATUS.ERRCODE (R42, R301). -/
  errcode : ErrCode
  /-- CTRL.IRQ_EN (R43). -/
  irqEn : Bool
  /-- ENTRY[7:0] (R44). -/
  entry : CmdAddr
  /-- ERRPC[7:0] (R46). -/
  errpc : CmdAddr
  /-- ERRCMD (R47). -/
  errcmd : Word32
  /-- MODEL'S OWN: which of the 12 bus words of each W word have been written since reset (R343). -/
  wInit : Vector (BitVec 12) 256
  /-- MODEL'S OWN: which of the 32 bus words of each scalar register have been written since reset (R343). -/
  sInit : Vector (BitVec 32) 4
  /-- MODEL'S OWN: the schedule, what happens next, first first (R52, R82).  When it is empty the core runs. -/
  script : List Action
  /-- MODEL'S OWN: what the bus port returned for the last read transaction (R70); none before the first. -/
  rdata : Option Word32
  deriving DecidableEq, Repr

/-- Why the machine stops. -/
inductive Fault where
  /-- The outcome `Uninit` of R343: something was read that has not been written since reset.  `step` raises it for
  command-memory entries alone (a fetch, a host read, or an ABORT that records one), because a register holds a value
  after reset; `checkedStep` (Uninit.lean) raises it for W words and scalar registers as well.  SAFE: the hardware goes
  on with a value the spec does not give. -/
  | uninit (at_ : Storage)
  deriving DecidableEq, Repr

/-- Why an instruction is refused. -/
inductive Refusal where
  /-- Raised only by an arm of `exec` that gives its instruction no meaning yet; no arm does.  SAFE. -/
  | notModelled (mnemonic : String)
  deriving DecidableEq, Repr

/-- The machine right after reset (R51, R340).  DESIGN CHOICE (notes/assumptions/1.md): W and S, which the spec
leaves unspecified, hold zero, and their written marks are clear; CMD lists nothing. -/
def State.reset : State where
  w := Vector.replicate 256 0#384
  sc := Vector.replicate 4 0#1024
  cmd := []
  pc := 0
  busy := false
  done := false
  accerr := false
  errcode := .none
  irqEn := false
  entry := 0
  errpc := 0
  errcmd := 0
  wInit := Vector.replicate 256 0#12
  sInit := Vector.replicate 4 0#32
  script := []
  rdata := none

end Sys2Proof.Machine
end

