-- ==== Sys2Proof/Machine/Ops.lean ====
section
/-! DEFINITION. The named operations over the storage arrays, and the ways a run starts and ends
(spec/40_control.md R130, R131; spec/60_exceptions.md R304 to R307). -/

namespace Sys2Proof.Machine

/-! ## W and S -/

/-- `W[i]` (R15, R31).  There is no word past 255; the range check of R303 runs before every read, so the 0 for such
an index is never used. -/
def State.readW (s : State) (i : Nat) : Word := s.w[i]?.getD 0

/-- `W[i] <- v` by a command: the word is whole and counts as written (R15, R343). -/
def State.writeW (s : State) (i : Nat) (v : Word) : State :=
  { s with w := s.w.setIfInBounds i v, wInit := s.wInit.setIfInBounds i (BitVec.allOnes 12) }

/-- The words of a result to W[b], W[b+1], ... in order (R18, R32). -/
def State.writeWords (s : State) (b : Nat) : List Word → State
  | [] => s
  | v :: vs => (s.writeW b v).writeWords (b + 1) vs

/-- `S[k]` (R15, R33). -/
def State.readS (s : State) (k : SIdx) : Scalar := s.sc[k.toNat]

/-- A W word counts as written only when all 12 of its bus words are (R343). -/
def State.wWritten (s : State) (i : Nat) : Bool := s.wInit[i]?.getD 0 == BitVec.allOnes 12

/-- A scalar register counts as written only when all 32 of its bus words are (R343). -/
def State.sWritten (s : State) (k : Nat) : Bool := s.sInit[k]?.getD 0 == BitVec.allOnes 32

/-! ## The command memory -/

/-- The canonical form: addresses below 256 (R34), strictly rising from `lo`. -/
def Memory.wfFrom (lo : Nat) : Memory → Bool
  | [] => true
  | (a, _) :: m => decide (lo ≤ a) && decide (a < 256) && Memory.wfFrom (a + 1) m

/-- The canonical form of the command memory. -/
def Memory.wf (m : Memory) : Bool := m.wfFrom 0

/-- `CMD[a]`; none when the entry has not been written since reset (R34, R343). -/
def Memory.read (m : Memory) (a : Nat) : Option Word32 :=
  match m with
  | [] => none
  | (b, v) :: t => if b = a then some v else Memory.read t a

/-- `CMD[a] <- v`, keeping the canonical form. -/
def Memory.write (m : Memory) (a : Nat) (v : Word32) : Memory :=
  match m with
  | [] => [(a, v)]
  | (b, u) :: t =>
    if a < b then (a, v) :: (b, u) :: t
    else if a = b then (a, v) :: t
    else (b, u) :: Memory.write t a v

/-- The command word at `pc`, if it has been written (R130: `w <- CMD[pc]`). -/
def State.fetch (s : State) : Option Word32 := s.cmd.read s.pc.toNat

/-! ## The end and the start of a run -/

/-- `end_error(code, a, w)`: the one way an error, an overflow of the program counter or an abort is recorded (R130,
R304).  The block has no vector and no mode, and control goes nowhere (R310). -/
def endError (code : ErrCode) (a : CmdAddr) (w : Word32) (s : State) : State :=
  { s with busy := false, done := true, errcode := code, errpc := a, errcmd := w, pc := a }

/-- `end_halt()` (R130, R133): ERRCODE stays 0 and pc keeps the HALT's address. -/
def endHalt (s : State) : State := { s with busy := false, done := true }

/-- What follows a command that has completed (R130): the next address, or the end of the run with PC_OVERFLOW after
the command at address 255 (R306). -/
def advance (w : Word32) (s : State) : State :=
  if s.pc = 255 then endError .pcOverflow 255 w s else { s with pc := s.pc + 1 }

/-- An accepted START (R131).  This is also how a host resumes after an error, since there is no return (R311). -/
def startRun (s : State) : State :=
  { s with pc := s.entry, errcode := .none, done := false, busy := true }

/-- A refused access: ACCERR is set and nothing else changes (R72, R77, R78, R308). -/
def refuseAccess (s : State) : State := { s with accerr := true }

end Sys2Proof.Machine
end

