-- ==== Sys2Proof/Machine/Flags.lean ====
section
/-! DEFINITION. The status bits and the interrupt line.  The block has no condition codes: no command reads or writes a
flag (spec/10_state.md R49), so what is here is the STATUS register (R42) and `irq` (R48). -/

namespace Sys2Proof.Machine

/-- The number of an error code (R301), the 4-bit field ERRCODE. -/
def ErrCode.bits : ErrCode → BitVec 4
  | .none => 0 | .illegalOpcode => 1 | .reservedField => 2 | .operandRange => 3
  | .noncanonical => 4 | .pcOverflow => 5 | .aborted => 6

/-- A decoding error as an error code (R108, R301). -/
def ErrCode.ofDecode : DecodeError → ErrCode
  | .illegalOpcode => .illegalOpcode
  | .reservedField => .reservedField

/-- One bit as a bit vector. -/
def bitVec1 (b : Bool) : BitVec 1 := BitVec.ofBool b

/-- STATUS as it reads: ERRCODE in 11:8, ACCERR in 2, DONE in 1, BUSY in 0, the rest 0 (R42). -/
def State.statusWord (s : State) : Word32 :=
  0#20 ++ s.errcode.bits ++ 0#5 ++ bitVec1 s.accerr ++ bitVec1 s.done ++ bitVec1 s.busy

/-- A write to STATUS acts through its W1C bits alone, DONE in bit 1 and ACCERR in bit 2 (R42, R79). -/
def writeStatus (v : Word32) (s : State) : State :=
  { s with done := s.done && !v.getLsbD 1, accerr := s.accerr && !v.getLsbD 2 }

/-- CTRL as it reads: IRQ_EN in bit 2; START and ABORT are write-only and read 0 (R43). -/
def State.ctrlWord (s : State) : Word32 := 0#29 ++ bitVec1 s.irqEn ++ 0#2

/-- The interrupt line `irq = CTRL.IRQ_EN AND STATUS.DONE` (R48, R309). -/
def State.irq (s : State) : Bool := s.irqEn && s.done

end Sys2Proof.Machine
end

