-- ==== Sys2Proof/Machine/Bus.lean ====
section
/-! DEFINITION. The host window (spec/20_memory.md R70 to R79; spec/10_state.md R40 to R48): what a bus transaction reads
and what it does.  The block has no translation or protection (R81), and a refused access gives no bus error (R308). -/

namespace Sys2Proof.Machine

open Sys2Proof

/-- What a window offset names (R71): a register, or a 32-bit bus word of an array. -/
inductive Loc where
  | id | version | status | ctrl | entry | pc | errpc | errcmd
  | cmd (a : Nat)
  | w (i j : Nat)
  | s (k j : Nat)
  | reserved
  deriving DecidableEq, Repr

/-- The layout of the window (R71).  W[i]'s bus word j is at 0x4000 + 48·i + 4·j (R73), S[k]'s at 0x8000 + 128·k + 4·j
(R74), CMD[a] at 0x1000 + 4·a (R75). -/
def locate (off : Offset) : Loc :=
  let n := off.toNat
  if n < 0x20 then
    match n / 4 with
    | 0 => .id
    | 1 => .version
    | 2 => .status
    | 3 => .ctrl
    | 4 => .entry
    | 5 => .pc
    | 6 => .errpc
    | _ => .errcmd
  else if 0x1000 ≤ n ∧ n < 0x1400 then .cmd ((n - 0x1000) / 4)
  else if 0x4000 ≤ n ∧ n < 0x7000 then .w ((n - 0x4000) / 48) ((n - 0x4000) % 48 / 4)
  else if 0x8000 ≤ n ∧ n < 0x8200 then .s ((n - 0x8000) / 128) ((n - 0x8000) % 128 / 4)
  else .reserved

/-- Only whole aligned 32-bit accesses are served (R72). -/
def accessOk (bytes : Nat) (off : Offset) : Bool := decide (bytes = 4) && decide (off.toNat % 4 = 0)

/-- The lowest bit of bus word j in an n-bit register, most significant bus word first (R73, R74). -/
def laneLow (n j : Nat) : Nat := n - 32 - 32 * j

/-- Bus word j of an n-bit register (R73, R74). -/
def getLane {n : Nat} (x : BitVec n) (j : Nat) : Word32 := x.extractLsb' (laneLow n j) 32

/-- An n-bit register with bus word j replaced and every other bit kept (R73, R74). -/
def setLane {n : Nat} (x : BitVec n) (j : Nat) (v : Word32) : BitVec n :=
  (x &&& ~~~((0xFFFFFFFF#32).setWidth n <<< laneLow n j)) ||| (v.setWidth n <<< laneLow n j)

/-- A mark mask with the mark of bus word j set (R343). -/
def markLane {n : Nat} (m : BitVec n) (j : Nat) : BitVec n := m ||| BitVec.twoPow n j

/-- A bus write into W[i] (R73). -/
def State.pokeW (s : State) (i j : Nat) (v : Word32) : State :=
  { s with
    w := s.w.setIfInBounds i (setLane (s.readW i) j v)
    wInit := s.wInit.setIfInBounds i (markLane (s.wInit[i]?.getD 0) j) }

/-- A bus write into S[k] (R74). -/
def State.pokeS (s : State) (k j : Nat) (v : Word32) : State :=
  { s with
    sc := s.sc.setIfInBounds k (setLane (s.sc[k]?.getD 0) j v)
    sInit := s.sInit.setIfInBounds k (markLane (s.sInit[k]?.getD 0) j) }

/-- ABORT (R307): between two commands, recorded as an error at pc with the command word that stands there.  Recording
a command-memory entry that has not been written since reset is a read of it (R343). -/
def abortRun (s : State) : Except Fault State :=
  match s.fetch with
  | some w => .ok (endError .aborted s.pc w s)
  | none => .error (.uninit (.cmd s.pc.toNat))

/-- A write to CTRL (R43): bit 2 is IRQ_EN, busy or idle.  While idle bit 0 starts a run and bit 1 does nothing; while
busy bit 1 aborts the run and bit 0 is a refused START (R131, R307, R312). -/
def writeCtrl (v : Word32) (s : State) : Except Fault State :=
  let s1 := { s with irqEn := v.getLsbD 2 }
  if s.busy then
    let s2 := if v.getLsbD 0 then refuseAccess s1 else s1
    if v.getLsbD 1 then abortRun s2 else .ok s2
  else if v.getLsbD 0 then .ok (startRun s1)
  else .ok s1

/-- What a read returns and leaves (R70 to R79): a refused read returns 0 and sets ACCERR, any other changes nothing.
While busy W, S, CMD and ENTRY are refused (R78). -/
def busRead (bytes : Nat) (off : Offset) (s : State) : Except Fault (Word32 × State) :=
  let refused : Except Fault (Word32 × State) := .ok (0, refuseAccess s)
  if accessOk bytes off then
    match locate off with
    | .id => .ok (Config.idValue, s)
    | .version => .ok (Config.versionValue, s)
    | .status => .ok (s.statusWord, s)
    | .ctrl => .ok (s.ctrlWord, s)
    | .entry => if s.busy then refused else .ok (s.entry.setWidth 32, s)
    | .pc => .ok (s.pc.setWidth 32, s)
    | .errpc => .ok (s.errpc.setWidth 32, s)
    | .errcmd => .ok (s.errcmd, s)
    | .cmd a =>
      if s.busy then refused
      else match s.cmd.read a with
        | some v => .ok (v, s)
        | none => .error (.uninit (.cmd a))
    | .w i j => if s.busy then refused else .ok (getLane (s.readW i) j, s)
    | .s k j => if s.busy then refused else .ok (getLane (s.sc[k]?.getD 0) j, s)
    | .reserved => refused
  else refused

/-- What a write does (R70 to R79).  A write to a read-only register is ignored without error (R77). -/
def busWrite (bytes : Nat) (off : Offset) (v : Word32) (s : State) : Except Fault State :=
  if accessOk bytes off then
    match locate off with
    | .id | .version | .pc | .errpc | .errcmd => .ok s
    | .status => .ok (writeStatus v s)
    | .ctrl => writeCtrl v s
    | .entry => .ok (if s.busy then refuseAccess s else { s with entry := v.setWidth 8 })
    | .cmd a => .ok (if s.busy then refuseAccess s else { s with cmd := s.cmd.write a v })
    | .w i j => .ok (if s.busy then refuseAccess s else s.pokeW i j v)
    | .s k j => .ok (if s.busy then refuseAccess s else s.pokeS k j v)
    | .reserved => .ok (refuseAccess s)
  else .ok (refuseAccess s)

/-! ## The platform's two parameters (spec/92_eei_decisions.md D16, D18): not observable inside the block -/

/-- `BUS_BYTE_ORDER`: a byte-addressed platform's lane order.  D16 leaves the mapping of a 32-bit word onto byte lanes
open; that it is one of the two usual orders is the model's DESIGN CHOICE (notes/assumptions/11.md). -/
inductive ByteOrder where
  | little | big
  deriving DecidableEq, Repr

/-- The four bytes of a bus word at ascending platform addresses, for either value this model gives the parameter
BUS_BYTE_ORDER (R76; notes/assumptions/11.md). -/
def platformBytes (o : ByteOrder) (v : Word32) : List (BitVec 8) :=
  let le := [v.extractLsb' 0 8, v.extractLsb' 8 8, v.extractLsb' 16 8, v.extractLsb' 24 8]
  match o with
  | .little => le
  | .big => le.reverse

/-- The window offset of a platform address, for any value of the parameter CORE_BASE; none outside the window (R70,
R71). -/
def windowOffset (coreBase addr : Nat) : Option Offset :=
  if coreBase ≤ addr ∧ addr < coreBase + 65536 then some (BitVec.ofNat 16 (addr - coreBase)) else none

end Sys2Proof.Machine
end

