-- ==== Sys2Proof/Machine/Arith.lean ====
section
/-! DEFINITION. The field-word functions of spec/00_scope.md R16, the exponentiation loop and the inversion engine
(spec/41_fp.md R140 to R151). -/

namespace Sys2Proof.Machine

open Sys2Proof

/-- `addp(a, b) = (a + b) mod p` (R16, R140). -/
def addp (a b : Nat) : Nat := (a + b) % Config.p

/-- `subp(a, b) = (a - b) mod p` for b ≤ p (R16, R141). -/
def subp (a b : Nat) : Nat := (a + (Config.p - b)) % Config.p

/-- `negp(a) = (p - a) mod p`, so that −0 = 0 (R16, R142). -/
def negp (a : Nat) : Nat := (Config.p - a) % Config.p

/-- `mont(a, b) = (a · b · 2^-384) mod p` (R16, R144). -/
def mont (a b : Nat) : Nat := a * b * Config.rinv % Config.p

/-- The field element a word stands for, `val(w) = w · Rm^-1 mod p` (R16). -/
def valOf (w : Nat) : Nat := w * Config.rinv % Config.p

/-- The word of a field element, `M(x) = x · Rm mod p` (R16). -/
def toMont (x : Nat) : Nat := x * Config.rm % Config.p

/-- The loop of FEXP over bits k-1 down to 0 of e, most significant first (R151). -/
def expLoop (a : Nat) (e : Nat) : Nat → Nat → Nat
  | 0, acc => acc
  | k + 1, acc =>
    let sq := mont acc acc
    expLoop a e k (if e.testBit k then mont sq a else sq)

/-- Exponentiation over all 1024 bits of e, starting from ONE (R151). -/
def expm (a : Nat) (e : Nat) : Nat := expLoop a e 1024 Config.one

/-- x/2 mod p, for x < p: the halving step of the binary Euclidean algorithm. -/
def halfp (x : Nat) : Nat := if x % 2 = 0 then x / 2 else (x + Config.p) / 2

/-- The extended binary Euclidean algorithm on (w, p), with x1·w ≡ u and x2·w ≡ v (mod p) (R149, mode 1).  The spec
fixes only its result; these steps are PRESUMED (notes/assumptions/4.md) and nothing can observe them. -/
def egcdLoop : Nat → Nat → Nat → Nat → Nat → Nat
  | 0, _, _, _, _ => 0
  | n + 1, u, v, x1, x2 =>
    if u = 1 then x1
    else if v = 1 then x2
    else if u % 2 = 0 then egcdLoop n (u / 2) v (halfp x1) x2
    else if v % 2 = 0 then egcdLoop n u (v / 2) x1 (halfp x2)
    else if v ≤ u then egcdLoop n (u - v) v (subp x1 x2) x2
    else egcdLoop n u (v - u) x1 (subp x2 x1)

/-- w^-1 mod p for 0 < w < p.  Every two rounds shorten the pair (w, p) by a bit, so 1600 rounds are enough for two
numbers of 381 bits. -/
def egcdInv (w : Nat) : Nat := egcdLoop 1600 w Config.p 1 0

/-- The inversion engine (R149): `M(val(w)^-1)`, and 0 for w = 0.  FERMAT raises to p − 2 with FEXP's loop; EGCD inverts
the word and multiplies by R3. -/
def invFw (mode : InvMode) (w : Nat) : Nat :=
  match mode with
  | .fermat => expm w (Config.p - 2)
  | .egcd => if w = 0 then 0 else mont (egcdInv w) Config.r3

end Sys2Proof.Machine
end

