-- ==== Sys2Proof/Machine/Tower.lean ====
section
/-! DEFINITION. The tower Fp2 = Fp[u]/(u² + 1), Fp6 = Fp2[v]/(v³ − (1 + u)), Fp12 = Fp6[w]/(w² − v) as functions on field
words (spec/00_scope.md R11, R12, R17, R19; spec/42_fp2.md, spec/43_fp6.md, spec/44_fp12.md). -/

namespace Sys2Proof.Machine

open Sys2Proof

/-- An Fp2 value c0 + c1·u (R17). -/
structure Fp2 where
  c0 : Nat
  c1 : Nat
  deriving DecidableEq, Repr

/-- An Fp6 value c0 + c1·v + c2·v² (R17). -/
structure Fp6 where
  c0 : Fp2
  c1 : Fp2
  c2 : Fp2
  deriving DecidableEq, Repr

/-- An Fp12 value c0 + c1·w (R17). -/
structure Fp12 where
  c0 : Fp6
  c1 : Fp6
  deriving DecidableEq, Repr

/-! ## Constants (R19) -/

def f2zero : Fp2 := ⟨0, 0⟩
def f2one : Fp2 := ⟨Config.one, 0⟩
def f6zero : Fp6 := ⟨f2zero, f2zero, f2zero⟩
def f6one : Fp6 := ⟨f2one, f2zero, f2zero⟩
def f12one : Fp12 := ⟨f6one, f6zero⟩

/-! ## Fp2 -/

/-- R170. -/
def f2add (a b : Fp2) : Fp2 := ⟨addp a.c0 b.c0, addp a.c1 b.c1⟩

/-- R171. -/
def f2sub (a b : Fp2) : Fp2 := ⟨subp a.c0 b.c0, subp a.c1 b.c1⟩

/-- R172. -/
def f2neg (a : Fp2) : Fp2 := ⟨negp a.c0, negp a.c1⟩

/-- R173. -/
def f2dbl (a : Fp2) : Fp2 := ⟨addp a.c0 a.c0, addp a.c1 a.c1⟩

/-- R174: Karatsuba, three Montgomery products. -/
def f2mul (a b : Fp2) : Fp2 :=
  let t0 := mont a.c0 b.c0
  let t1 := mont a.c1 b.c1
  let t2 := mont (addp a.c0 a.c1) (addp b.c0 b.c1)
  ⟨subp t0 t1, subp (subp t2 t0) t1⟩

/-- R175: two Montgomery products. -/
def f2sqr (a : Fp2) : Fp2 :=
  let t := mont a.c0 a.c1
  ⟨mont (addp a.c0 a.c1) (subp a.c0 a.c1), addp t t⟩

/-- R176: through the norm a0² + a1². -/
def f2inv (mode : InvMode) (a : Fp2) : Fp2 :=
  let n := addp (mont a.c0 a.c0) (mont a.c1 a.c1)
  let ni := invFw mode n
  ⟨mont a.c0 ni, negp (mont a.c1 ni)⟩

/-- R177: multiplication by ξ = 1 + u. -/
def f2mulnr (a : Fp2) : Fp2 := ⟨subp a.c0 a.c1, addp a.c0 a.c1⟩

/-- R178. -/
def f2conj (a : Fp2) : Fp2 := ⟨a.c0, negp a.c1⟩

/-! ## Fp6 -/

/-- R190. -/
def f6add (a b : Fp6) : Fp6 := ⟨f2add a.c0 b.c0, f2add a.c1 b.c1, f2add a.c2 b.c2⟩

/-- R191. -/
def f6sub (a b : Fp6) : Fp6 := ⟨f2sub a.c0 b.c0, f2sub a.c1 b.c1, f2sub a.c2 b.c2⟩

/-- R192. -/
def f6neg (a : Fp6) : Fp6 := ⟨f2neg a.c0, f2neg a.c1, f2neg a.c2⟩

/-- R193: the value formula, which spec/90_conflicts.md C4 makes normative.  The Karatsuba datapath of R193 is
`f6mulKaratsuba` in Datapath.lean. -/
def f6mul (a b : Fp6) : Fp6 :=
  ⟨f2add (f2mul a.c0 b.c0) (f2mulnr (f2add (f2mul a.c1 b.c2) (f2mul a.c2 b.c1))),
   f2add (f2add (f2mul a.c0 b.c1) (f2mul a.c1 b.c0)) (f2mulnr (f2mul a.c2 b.c2)),
   f2add (f2add (f2mul a.c0 b.c2) (f2mul a.c1 b.c1)) (f2mul a.c2 b.c0)⟩

/-- R194: multiplication by (b0, b1, 0). -/
def f6mul01 (a : Fp6) (b0 b1 : Fp2) : Fp6 :=
  ⟨f2add (f2mul a.c0 b0) (f2mulnr (f2mul a.c2 b1)),
   f2add (f2mul a.c0 b1) (f2mul a.c1 b0),
   f2add (f2mul a.c1 b1) (f2mul a.c2 b0)⟩

/-- R195: multiplication by (0, b1, 0). -/
def f6mul1 (a : Fp6) (b1 : Fp2) : Fp6 :=
  ⟨f2mulnr (f2mul a.c2 b1), f2mul a.c0 b1, f2mul a.c1 b1⟩

/-- R196. -/
def f6sqr (a : Fp6) : Fp6 := f6mul a a

/-- R197: through an Fp2 norm. -/
def f6inv (mode : InvMode) (a : Fp6) : Fp6 :=
  let t0 := f2sub (f2sqr a.c0) (f2mulnr (f2mul a.c1 a.c2))
  let t1 := f2sub (f2mulnr (f2sqr a.c2)) (f2mul a.c0 a.c1)
  let t2 := f2sub (f2sqr a.c1) (f2mul a.c0 a.c2)
  let n := f2add (f2mul a.c0 t0) (f2mulnr (f2add (f2mul a.c2 t1) (f2mul a.c1 t2)))
  let ni := f2inv mode n
  ⟨f2mul t0 ni, f2mul t1 ni, f2mul t2 ni⟩

/-- R198: multiplication by v. -/
def f6mulnr (a : Fp6) : Fp6 := ⟨f2mulnr a.c2, a.c0, a.c1⟩

/-! ## Fp12 -/

/-- R210. -/
def f12add (a b : Fp12) : Fp12 := ⟨f6add a.c0 b.c0, f6add a.c1 b.c1⟩

/-- R211. -/
def f12sub (a b : Fp12) : Fp12 := ⟨f6sub a.c0 b.c0, f6sub a.c1 b.c1⟩

/-- R212: Karatsuba over Fp6, three Fp6 products. -/
def f12mul (a b : Fp12) : Fp12 :=
  let t0 := f6mul a.c0 b.c0
  let t1 := f6mul a.c1 b.c1
  ⟨f6add t0 (f6mulnr t1),
   f6sub (f6sub (f6mul (f6add a.c0 a.c1) (f6add b.c0 b.c1)) t0) t1⟩

/-- R213. -/
def f12sqr (a : Fp12) : Fp12 := f12mul a a

/-- R214: multiplication by the line {[l0, l1, 0] ; [0, l4, 0]}. -/
def f12mul014 (a : Fp12) (l0 l1 l4 : Fp2) : Fp12 :=
  let t0 := f6mul01 a.c0 l0 l1
  let t1 := f6mul1 a.c1 l4
  ⟨f6add t0 (f6mulnr t1),
   f6sub (f6sub (f6mul01 (f6add a.c0 a.c1) l0 (f2add l1 l4)) t0) t1⟩

/-- R215: through the norm a0² − v·a1². -/
def f12inv (mode : InvMode) (a : Fp12) : Fp12 :=
  let n := f6sub (f6sqr a.c0) (f6mulnr (f6sqr a.c1))
  let ni := f6inv mode n
  ⟨f6mul a.c0 ni, f6neg (f6mul a.c1 ni)⟩

/-- R216. -/
def f12conj (a : Fp12) : Fp12 := ⟨a.c0, f6neg a.c1⟩

end Sys2Proof.Machine
end

