-- ==== Sys2Proof/Machine/Point.lean ====
section
/-! DEFINITION. The G2 point functions and the two scalar multipliers as functions on field words
(spec/45_g2.md R230 to R235; spec/46_scalar_mult.md R261 to R264). -/

namespace Sys2Proof.Machine

open Sys2Proof

/-- A Jacobian point (X, Y, Z) (R17). -/
structure G2 where
  X : Fp2
  Y : Fp2
  Z : Fp2
  deriving DecidableEq, Repr

/-- An affine operand (x, y), with Z = 1 implied (R21, R32). -/
structure Aff where
  x : Fp2
  y : Fp2
  deriving DecidableEq, Repr

/-- The canonical zero point (0, 1, 0) (R19, R230). -/
def g2zero : G2 := ⟨f2zero, f2one, f2zero⟩

/-- The generator with Z = 1 (R135). -/
def g2gen : G2 := ⟨⟨Config.gx0, Config.gx1⟩, ⟨Config.gy0, Config.gy1⟩, f2one⟩

/-- The zero test: both words of Z are 0; X and Y are not examined (R230). -/
def iszero (P : G2) : Bool := decide (P.Z = f2zero)

/-- R234. -/
def pointNeg (P : G2) : G2 := ⟨P.X, f2neg P.Y, P.Z⟩

/-- R233: dbl-2009-l. -/
def pointDbl (P : G2) : G2 :=
  if iszero P then P
  else
    let A := f2sqr P.X
    let B := f2sqr P.Y
    let C := f2sqr B
    let D := f2dbl (f2sub (f2sub (f2sqr (f2add P.X B)) A) C)
    let E := f2add (f2dbl A) A
    let F := f2sqr E
    let X3 := f2sub F (f2dbl D)
    let Y3 := f2sub (f2mul E (f2sub D X3)) (f2dbl (f2dbl (f2dbl C)))
    let Z3 := f2dbl (f2mul P.Y P.Z)
    ⟨X3, Y3, Z3⟩

/-- R231: add-2007-bl with the dispatch on zero, equal and inverse operands. -/
def pointAdd (P1 P2 : G2) : G2 :=
  if iszero P1 then P2
  else if iszero P2 then P1
  else
    let Z1Z1 := f2sqr P1.Z
    let Z2Z2 := f2sqr P2.Z
    let U1 := f2mul P1.X Z2Z2
    let U2 := f2mul P2.X Z1Z1
    let S1 := f2mul P1.Y (f2mul P2.Z Z2Z2)
    let S2 := f2mul P2.Y (f2mul P1.Z Z1Z1)
    if U1 = U2 then
      if S1 = S2 then pointDbl P1 else g2zero
    else
      let H := f2sub U2 U1
      let I := f2sqr (f2dbl H)
      let J := f2mul H I
      let r := f2dbl (f2sub S2 S1)
      let V := f2mul U1 I
      let X3 := f2sub (f2sub (f2sqr r) J) (f2dbl V)
      let Y3 := f2sub (f2mul r (f2sub V X3)) (f2dbl (f2mul S1 J))
      let Z3 := f2mul (f2sub (f2sub (f2sqr (f2add P1.Z P2.Z)) Z1Z1) Z2Z2) H
      ⟨X3, Y3, Z3⟩

/-- R232: madd-2007-bl, with an affine second operand. -/
def pointAddMixed (P1 : G2) (A : Aff) : G2 :=
  if iszero P1 then ⟨A.x, A.y, f2one⟩
  else
    let Z1Z1 := f2sqr P1.Z
    let U2 := f2mul A.x Z1Z1
    let S2 := f2mul A.y (f2mul P1.Z Z1Z1)
    if P1.X = U2 then
      if P1.Y = S2 then pointDbl P1 else g2zero
    else
      let H := f2sub U2 P1.X
      let HH := f2sqr H
      let I := f2dbl (f2dbl HH)
      let J := f2mul H I
      let r := f2dbl (f2sub S2 P1.Y)
      let V := f2mul P1.X I
      let X3 := f2sub (f2sub (f2sqr r) J) (f2dbl V)
      let Y3 := f2sub (f2mul r (f2sub V X3)) (f2dbl (f2mul P1.Y J))
      let Z3 := f2sub (f2sub (f2sqr (f2add P1.Z H)) Z1Z1) HH
      ⟨X3, Y3, Z3⟩

/-- R235. -/
def pointSub (P1 P2 : G2) : G2 := pointAdd P1 (pointNeg P2)

/-! ## Scalar multiplication -/

/-- The loop of R261: the next bit is bit i, `k` bits are left, q accumulates and n is doubled. -/
def smulLoop (e : Nat) : Nat → Nat → G2 → G2 → G2
  | 0, _, q, _ => q
  | k + 1, i, q, n => smulLoop e k (i + 1) (if e.testBit i then pointAdd q n else q) (pointDbl n)

/-- Binary scalar multiplication, least significant bit first, over all 1024 bits (R261). -/
def smul (P : G2) (e : Nat) : G2 := smulLoop e 1024 0 g2zero P

/-- One digit of the recoding (R262): 0 for an even e, else the odd residue of e mod 64 in (-32, 32]. -/
def nafDigit (e : Nat) : Int :=
  if e % 2 = 1 then
    let m : Int := (e % 64 : Nat)
    if m > 32 then m - 64 else m
  else 0

/-- The digits of the recoding, least significant first, at most `fuel` of them (R262). -/
def nafLoop : Nat → Nat → List Int
  | 0, _ => []
  | fuel + 1, e =>
    if e = 0 then []
    else nafDigit e :: nafLoop fuel (((e : Int) - nafDigit e).toNat / 2)

/-- `naf(e)` for e < 2^1024, whose list has at most 1025 digits (R262). -/
def naf (e : Nat) : List Int := nafLoop 1025 e

/-- P's odd multiples acc, acc + D, ... : `n` of them (R263). -/
def multiplesFrom (D : G2) : Nat → G2 → List G2
  | 0, _ => []
  | n + 1, acc => acc :: multiplesFrom D n (pointAdd acc D)

/-- P, 3P, ..., 31P, the upper half T[16..31] of the table (R263). -/
def oddMultiples (P : G2) : List G2 := multiplesFrom (pointDbl P) 16 P

/-- The table T[0..31] (R263): T[16+j] = (2j+1)P and T[15−j] = −(2j+1)P. -/
def wnafTable (P : G2) : List G2 := ((oddMultiples P).map pointNeg).reverse ++ oddMultiples P

/-- The table entry a non-zero digit selects (R263). -/
def tableIndex (d : Int) : Nat :=
  if d > 0 then 16 + ((d - 1) / 2).toNat else 15 - ((-d - 1) / 2).toNat

/-- One round of R264 for the digit d: double once a non-zero digit has been met, then add the digit's entry. -/
def smulwStep (T : List G2) (st : G2 × Bool) (d : Int) : G2 × Bool :=
  let q := if st.2 then pointDbl st.1 else st.1
  if d = 0 then (q, st.2) else (pointAdd q (T.getD (tableIndex d) g2zero), true)

/-- Windowed (wNAF, w = 6) scalar multiplication, most significant digit first (R264). -/
def smulw (P : G2) (e : Nat) : G2 :=
  ((naf e).reverse.foldl (smulwStep (wnafTable P)) (g2zero, false)).1

end Sys2Proof.Machine
end

