-- ==== Sys2Proof/Machine/Operands.lean ====
section
/-! DEFINITION. Every operand form: which words a command names (spec/30_encoding.md R101 to R104; spec/10_state.md R32),
the check procedure of spec/60_exceptions.md R303, and the reads and writes of tower values (spec/00_scope.md R18).
The core has no addressing modes (spec/20_memory.md R87). -/

namespace Sys2Proof.Machine

open Sys2Proof

/-! ## The operand table (R103) -/

/-- How many words an LDC constant has (R103, R135). -/
def ldcSize : LdcConst → Nat
  | .zero | .one | .r2 => 1
  | .g2zero | .g2gen => 6
  | .b2 => 2

/-- The destination, its base and size: the column `rd` of R103. -/
def destOf : Instr → Option (WIdx × Nat)
  | .nop | .halt => none
  | .mov rd _ n => some (rd, n.toNat)
  | .ldc rd k => some (rd, ldcSize k)
  | .fadd rd _ _ | .fsub rd _ _ | .fneg rd _ | .fdbl rd _ | .fmul rd _ _ | .fsqr rd _ | .finv rd _ _
  | .fexp rd _ _ | .tomont rd _ | .frommont rd _ => some (rd, 1)
  | .f2add rd _ _ | .f2sub rd _ _ | .f2neg rd _ | .f2dbl rd _ | .f2mul rd _ _ | .f2sqr rd _ | .f2inv rd _ _
  | .f2mulnr rd _ | .f2conj rd _ => some (rd, 2)
  | .f6add rd _ _ | .f6sub rd _ _ | .f6neg rd _ | .f6mul rd _ _ | .f6mul01 rd _ _ | .f6mul1 rd _ _
  | .f6sqr rd _ | .f6inv rd _ _ | .f6mulnr rd _ => some (rd, 6)
  | .f12add rd _ _ | .f12sub rd _ _ | .f12mul rd _ _ | .f12sqr rd _ | .f12mul014 rd _ _ | .f12inv rd _ _
  | .f12conj rd _ => some (rd, 12)
  | .g2add rd _ _ | .g2addm rd _ _ | .g2dbl rd _ | .g2neg rd _ | .g2sub rd _ _ | .g2smul rd _ _
  | .g2smulw rd _ _ => some (rd, 6)

/-- The W sources in the order rs1, rs2, each its base and size: the columns `rs1` and `rs2` of R103. -/
def sourcesOf : Instr → List (WIdx × Nat)
  | .nop | .halt | .ldc _ _ => []
  | .mov _ a n => [(a, n.toNat)]
  | .fadd _ a b | .fsub _ a b | .fmul _ a b => [(a, 1), (b, 1)]
  | .fneg _ a | .fdbl _ a | .fsqr _ a | .finv _ a _ | .fexp _ a _ | .tomont _ a | .frommont _ a => [(a, 1)]
  | .f2add _ a b | .f2sub _ a b | .f2mul _ a b => [(a, 2), (b, 2)]
  | .f2neg _ a | .f2dbl _ a | .f2sqr _ a | .f2inv _ a _ | .f2mulnr _ a | .f2conj _ a => [(a, 2)]
  | .f6add _ a b | .f6sub _ a b | .f6mul _ a b => [(a, 6), (b, 6)]
  | .f6mul01 _ a b => [(a, 6), (b, 4)]
  | .f6mul1 _ a b => [(a, 6), (b, 2)]
  | .f6neg _ a | .f6sqr _ a | .f6inv _ a _ | .f6mulnr _ a => [(a, 6)]
  | .f12add _ a b | .f12sub _ a b | .f12mul _ a b => [(a, 12), (b, 12)]
  | .f12mul014 _ a b => [(a, 12), (b, 6)]
  | .f12sqr _ a | .f12inv _ a _ | .f12conj _ a => [(a, 12)]
  | .g2add _ a b | .g2sub _ a b => [(a, 6), (b, 6)]
  | .g2addm _ a b => [(a, 6), (b, 4)]
  | .g2dbl _ a | .g2neg _ a | .g2smul _ a _ | .g2smulw _ a _ => [(a, 6)]

/-- The scalar register a command reads (R103, R260). -/
def scalarOf : Instr → Option SIdx
  | .fexp _ _ k | .g2smul _ _ k | .g2smulw _ _ k => some k
  | .nop | .halt | .mov .. | .ldc .. | .fadd .. | .fsub .. | .fneg .. | .fdbl .. | .fmul .. | .fsqr .. | .finv ..
  | .tomont .. | .frommont .. | .f2add .. | .f2sub .. | .f2neg .. | .f2dbl .. | .f2mul .. | .f2sqr .. | .f2inv ..
  | .f2mulnr .. | .f2conj .. | .f6add .. | .f6sub .. | .f6neg .. | .f6mul .. | .f6mul01 .. | .f6mul1 ..
  | .f6sqr .. | .f6inv .. | .f6mulnr .. | .f12add .. | .f12sub .. | .f12mul .. | .f12sqr .. | .f12mul014 ..
  | .f12inv .. | .f12conj .. | .g2add .. | .g2addm .. | .g2dbl .. | .g2neg .. | .g2sub .. => none

/-- Are the sources field sources, checked to be canonical?  Only MOV copies without the check (R134, R303). -/
def checksCanonical : Instr → Bool
  | .mov .. => false
  | .nop | .halt | .ldc .. | .fadd .. | .fsub .. | .fneg .. | .fdbl .. | .fmul .. | .fsqr .. | .finv .. | .fexp ..
  | .tomont .. | .frommont .. | .f2add .. | .f2sub .. | .f2neg .. | .f2dbl .. | .f2mul .. | .f2sqr .. | .f2inv ..
  | .f2mulnr .. | .f2conj .. | .f6add .. | .f6sub .. | .f6neg .. | .f6mul .. | .f6mul01 .. | .f6mul1 ..
  | .f6sqr .. | .f6inv .. | .f6mulnr .. | .f12add .. | .f12sub .. | .f12mul .. | .f12sqr .. | .f12mul014 ..
  | .f12inv .. | .f12conj .. | .g2add .. | .g2addm .. | .g2dbl .. | .g2neg .. | .g2sub .. | .g2smul ..
  | .g2smulw .. => true

/-! ## The check procedure (R303) -/

/-- `base + size ≤ 256` (R101). -/
def inRange (o : WIdx × Nat) : Bool := decide (o.1.toNat + o.2 ≤ 256)

/-- The W operands in the order rd, rs1, rs2. -/
def operandsOf (i : Instr) : List (WIdx × Nat) := (destOf i).toList ++ sourcesOf i

/-- Every operand lies in the W file (R303, item 2). -/
def rangesOk (i : Instr) : Bool := (operandsOf i).all inRange

/-- The indices of the words an operand names, in index order (R102). -/
def indicesOf (o : WIdx × Nat) : List Nat := List.range' o.1.toNat o.2

/-- The indices of every source word in the order R303 visits them. -/
def sourceIndices (i : Instr) : List Nat := (sourcesOf i).flatMap indicesOf

/-- A word of W is canonical: it lies in [0, p) (R21, R303). -/
def State.canonical (s : State) (i : Nat) : Bool := decide ((s.readW i).toNat < Config.p)

/-- Every word of every field source is canonical (R303, item 3). -/
def sourcesCanonical (i : Instr) (s : State) : Bool :=
  !checksCanonical i || (sourceIndices i).all s.canonical

/-- The check procedure and its priority (R303); none when the command may execute. -/
def check (i : Instr) (s : State) : Option ErrCode :=
  if !i.wellFormed then some .reservedField
  else if !rangesOk i then some .operandRange
  else if !sourcesCanonical i s then some .noncanonical
  else none

/-! ## Reading and writing operands (R18) -/

/-- The W word that holds a field word. -/
def fw (x : Nat) : Word := BitVec.ofNat 384 x

def State.rdFp (s : State) (b : Nat) : Nat := (s.readW b).toNat
def State.rdFp2 (s : State) (b : Nat) : Fp2 := ⟨s.rdFp b, s.rdFp (b + 1)⟩
def State.rdFp6 (s : State) (b : Nat) : Fp6 := ⟨s.rdFp2 b, s.rdFp2 (b + 2), s.rdFp2 (b + 4)⟩
def State.rdFp12 (s : State) (b : Nat) : Fp12 := ⟨s.rdFp6 b, s.rdFp6 (b + 6)⟩
def State.rdG2 (s : State) (b : Nat) : G2 := ⟨s.rdFp2 b, s.rdFp2 (b + 2), s.rdFp2 (b + 4)⟩
def State.rdAff (s : State) (b : Nat) : Aff := ⟨s.rdFp2 b, s.rdFp2 (b + 2)⟩

/-- The n words from base b as they stand (MOV's source, R134). -/
def State.rdRaw (s : State) (b n : Nat) : List Word := (List.range' b n).map s.readW

def Fp2.words (a : Fp2) : List Word := [fw a.c0, fw a.c1]
def Fp6.words (a : Fp6) : List Word := a.c0.words ++ a.c1.words ++ a.c2.words
def Fp12.words (a : Fp12) : List Word := a.c0.words ++ a.c1.words
def G2.words (P : G2) : List Word := P.X.words ++ P.Y.words ++ P.Z.words

/-- The words LDC writes (R135). -/
def ldcWords : LdcConst → List Word
  | .zero => [fw 0]
  | .one => [fw Config.one]
  | .r2 => [fw Config.r2]
  | .g2zero => g2zero.words
  | .g2gen => g2gen.words
  | .b2 => [fw Config.m4, fw Config.m4]

/-! ## The command cycle (R130) -/

/-- One command of the cycle of R130: the checks, then the result (computed from the state before any write, R38)
to the destination, then the advance of pc.  `i` is the command, `rd` its destination base and `res` its result. -/
def command (i : Instr) (rd : WIdx) (res : List Word) (s : State) : Host.Outcome State Fault Refusal :=
  match check i s with
  | some e => .next (endError e s.pc (encode i) s)
  | none => .next (advance (encode i) (s.writeWords rd.toNat res))

end Sys2Proof.Machine
end

