-- ==== Sys2Proof/Machine/Control.lean ====
section
/-! DEFINITION. NOP, HALT, MOV and LDC (spec/40_control.md R132 to R135). -/

namespace Sys2Proof.Machine

open Sys2Proof

/-- NOP (R132): no operation; it writes nothing and the cycle advances pc. -/
def execNop (s : State) : Host.Outcome State Fault Refusal := command .nop 0 [] s

/-- HALT (R133): the run ends without error, at address 255 too. -/
def execHalt (s : State) : Host.Outcome State Fault Refusal := .next (endHalt s)

/-- MOV (R134): n words, canonical or not, as if through a temporary. -/
def execMov (rd rs1 : WIdx) (n : BitVec 8) (s : State) : Host.Outcome State Fault Refusal :=
  command (.mov rd rs1 n) rd (s.rdRaw rs1.toNat n.toNat) s

/-- LDC (R135): a constant of the ROM. -/
def execLdc (rd : WIdx) (k : LdcConst) (s : State) : Host.Outcome State Fault Refusal :=
  command (.ldc rd k) rd (ldcWords k) s

end Sys2Proof.Machine
end

