-- ==== Sys2Proof/Machine/Fp12Cmds.lean ====
section
/-! DEFINITION. The Fp12 commands (spec/44_fp12.md R210 to R216). -/

namespace Sys2Proof.Machine

open Sys2Proof

/-- F12ADD (R210). -/
def execF12add (rd rs1 rs2 : WIdx) (s : State) : Host.Outcome State Fault Refusal :=
  command (.f12add rd rs1 rs2) rd (f12add (s.rdFp12 rs1.toNat) (s.rdFp12 rs2.toNat)).words s

/-- F12SUB (R211). -/
def execF12sub (rd rs1 rs2 : WIdx) (s : State) : Host.Outcome State Fault Refusal :=
  command (.f12sub rd rs1 rs2) rd (f12sub (s.rdFp12 rs1.toNat) (s.rdFp12 rs2.toNat)).words s

/-- F12MUL (R212). -/
def execF12mul (rd rs1 rs2 : WIdx) (s : State) : Host.Outcome State Fault Refusal :=
  command (.f12mul rd rs1 rs2) rd (f12mul (s.rdFp12 rs1.toNat) (s.rdFp12 rs2.toNat)).words s

/-- F12SQR (R213). -/
def execF12sqr (rd rs1 : WIdx) (s : State) : Host.Outcome State Fault Refusal :=
  command (.f12sqr rd rs1) rd (f12sqr (s.rdFp12 rs1.toNat)).words s

/-- F12MUL014 (R214): the second source is the 6-word line operand (l0, l1, l4). -/
def execF12mul014 (rd rs1 rs2 : WIdx) (s : State) : Host.Outcome State Fault Refusal :=
  command (.f12mul014 rd rs1 rs2) rd (f12mul014 (s.rdFp12 rs1.toNat) (s.rdFp2 rs2.toNat) (s.rdFp2 (rs2.toNat + 2))
    (s.rdFp2 (rs2.toNat + 4))).words s

/-- F12INV (R215). -/
def execF12inv (rd rs1 : WIdx) (mode : InvMode) (s : State) : Host.Outcome State Fault Refusal :=
  command (.f12inv rd rs1 mode) rd (f12inv mode (s.rdFp12 rs1.toNat)).words s

/-- F12CONJ (R216). -/
def execF12conj (rd rs1 : WIdx) (s : State) : Host.Outcome State Fault Refusal :=
  command (.f12conj rd rs1) rd (f12conj (s.rdFp12 rs1.toNat)).words s

end Sys2Proof.Machine
end

