-- ==== Sys2Proof/Machine/Fp2Cmds.lean ====
section
/-! DEFINITION. The Fp2 commands (spec/42_fp2.md R170 to R178). -/

namespace Sys2Proof.Machine

open Sys2Proof

/-- F2ADD (R170). -/
def execF2add (rd rs1 rs2 : WIdx) (s : State) : Host.Outcome State Fault Refusal :=
  command (.f2add rd rs1 rs2) rd (f2add (s.rdFp2 rs1.toNat) (s.rdFp2 rs2.toNat)).words s

/-- F2SUB (R171). -/
def execF2sub (rd rs1 rs2 : WIdx) (s : State) : Host.Outcome State Fault Refusal :=
  command (.f2sub rd rs1 rs2) rd (f2sub (s.rdFp2 rs1.toNat) (s.rdFp2 rs2.toNat)).words s

/-- F2NEG (R172). -/
def execF2neg (rd rs1 : WIdx) (s : State) : Host.Outcome State Fault Refusal :=
  command (.f2neg rd rs1) rd (f2neg (s.rdFp2 rs1.toNat)).words s

/-- F2DBL (R173). -/
def execF2dbl (rd rs1 : WIdx) (s : State) : Host.Outcome State Fault Refusal :=
  command (.f2dbl rd rs1) rd (f2dbl (s.rdFp2 rs1.toNat)).words s

/-- F2MUL (R174). -/
def execF2mul (rd rs1 rs2 : WIdx) (s : State) : Host.Outcome State Fault Refusal :=
  command (.f2mul rd rs1 rs2) rd (f2mul (s.rdFp2 rs1.toNat) (s.rdFp2 rs2.toNat)).words s

/-- F2SQR (R175). -/
def execF2sqr (rd rs1 : WIdx) (s : State) : Host.Outcome State Fault Refusal :=
  command (.f2sqr rd rs1) rd (f2sqr (s.rdFp2 rs1.toNat)).words s

/-- F2INV (R176). -/
def execF2inv (rd rs1 : WIdx) (mode : InvMode) (s : State) : Host.Outcome State Fault Refusal :=
  command (.f2inv rd rs1 mode) rd (f2inv mode (s.rdFp2 rs1.toNat)).words s

/-- F2MULNR (R177). -/
def execF2mulnr (rd rs1 : WIdx) (s : State) : Host.Outcome State Fault Refusal :=
  command (.f2mulnr rd rs1) rd (f2mulnr (s.rdFp2 rs1.toNat)).words s

/-- F2CONJ (R178). -/
def execF2conj (rd rs1 : WIdx) (s : State) : Host.Outcome State Fault Refusal :=
  command (.f2conj rd rs1) rd (f2conj (s.rdFp2 rs1.toNat)).words s

end Sys2Proof.Machine
end

