-- ==== Sys2Proof/Machine/Fp6Cmds.lean ====
section
/-! DEFINITION. The Fp6 commands, dense and sparse (spec/43_fp6.md R190 to R198). -/

namespace Sys2Proof.Machine

open Sys2Proof

/-- F6ADD (R190). -/
def execF6add (rd rs1 rs2 : WIdx) (s : State) : Host.Outcome State Fault Refusal :=
  command (.f6add rd rs1 rs2) rd (f6add (s.rdFp6 rs1.toNat) (s.rdFp6 rs2.toNat)).words s

/-- F6SUB (R191). -/
def execF6sub (rd rs1 rs2 : WIdx) (s : State) : Host.Outcome State Fault Refusal :=
  command (.f6sub rd rs1 rs2) rd (f6sub (s.rdFp6 rs1.toNat) (s.rdFp6 rs2.toNat)).words s

/-- F6NEG (R192). -/
def execF6neg (rd rs1 : WIdx) (s : State) : Host.Outcome State Fault Refusal :=
  command (.f6neg rd rs1) rd (f6neg (s.rdFp6 rs1.toNat)).words s

/-- F6MUL (R193). -/
def execF6mul (rd rs1 rs2 : WIdx) (s : State) : Host.Outcome State Fault Refusal :=
  command (.f6mul rd rs1 rs2) rd (f6mul (s.rdFp6 rs1.toNat) (s.rdFp6 rs2.toNat)).words s

/-- F6MUL01 (R194): the second source is the 4-word operand (b0, b1). -/
def execF6mul01 (rd rs1 rs2 : WIdx) (s : State) : Host.Outcome State Fault Refusal :=
  command (.f6mul01 rd rs1 rs2) rd (f6mul01 (s.rdFp6 rs1.toNat) (s.rdFp2 rs2.toNat) (s.rdFp2 (rs2.toNat + 2))).words s

/-- F6MUL1 (R195): the second source is the 2-word operand b1. -/
def execF6mul1 (rd rs1 rs2 : WIdx) (s : State) : Host.Outcome State Fault Refusal :=
  command (.f6mul1 rd rs1 rs2) rd (f6mul1 (s.rdFp6 rs1.toNat) (s.rdFp2 rs2.toNat)).words s

/-- F6SQR (R196). -/
def execF6sqr (rd rs1 : WIdx) (s : State) : Host.Outcome State Fault Refusal :=
  command (.f6sqr rd rs1) rd (f6sqr (s.rdFp6 rs1.toNat)).words s

/-- F6INV (R197). -/
def execF6inv (rd rs1 : WIdx) (mode : InvMode) (s : State) : Host.Outcome State Fault Refusal :=
  command (.f6inv rd rs1 mode) rd (f6inv mode (s.rdFp6 rs1.toNat)).words s

/-- F6MULNR (R198). -/
def execF6mulnr (rd rs1 : WIdx) (s : State) : Host.Outcome State Fault Refusal :=
  command (.f6mulnr rd rs1) rd (f6mulnr (s.rdFp6 rs1.toNat)).words s

end Sys2Proof.Machine
end

