-- ==== Sys2Proof/Machine/FpCmds.lean ====
section
/-! DEFINITION. The Fp commands (spec/41_fp.md R140 to R151). -/

namespace Sys2Proof.Machine

open Sys2Proof

/-- FADD (R140). -/
def execFadd (rd rs1 rs2 : WIdx) (s : State) : Host.Outcome State Fault Refusal :=
  command (.fadd rd rs1 rs2) rd [fw (addp (s.rdFp rs1.toNat) (s.rdFp rs2.toNat))] s

/-- FSUB (R141). -/
def execFsub (rd rs1 rs2 : WIdx) (s : State) : Host.Outcome State Fault Refusal :=
  command (.fsub rd rs1 rs2) rd [fw (subp (s.rdFp rs1.toNat) (s.rdFp rs2.toNat))] s

/-- FNEG (R142). -/
def execFneg (rd rs1 : WIdx) (s : State) : Host.Outcome State Fault Refusal :=
  command (.fneg rd rs1) rd [fw (negp (s.rdFp rs1.toNat))] s

/-- FDBL (R143). -/
def execFdbl (rd rs1 : WIdx) (s : State) : Host.Outcome State Fault Refusal :=
  command (.fdbl rd rs1) rd [fw (addp (s.rdFp rs1.toNat) (s.rdFp rs1.toNat))] s

/-- FMUL (R144). -/
def execFmul (rd rs1 rs2 : WIdx) (s : State) : Host.Outcome State Fault Refusal :=
  command (.fmul rd rs1 rs2) rd [fw (mont (s.rdFp rs1.toNat) (s.rdFp rs2.toNat))] s

/-- FSQR (R146). -/
def execFsqr (rd rs1 : WIdx) (s : State) : Host.Outcome State Fault Refusal :=
  command (.fsqr rd rs1) rd [fw (mont (s.rdFp rs1.toNat) (s.rdFp rs1.toNat))] s

/-- FINV (R149, R150). -/
def execFinv (rd rs1 : WIdx) (mode : InvMode) (s : State) : Host.Outcome State Fault Refusal :=
  command (.finv rd rs1 mode) rd [fw (invFw mode (s.rdFp rs1.toNat))] s

/-- FEXP (R151). -/
def execFexp (rd rs1 : WIdx) (k : SIdx) (s : State) : Host.Outcome State Fault Refusal :=
  command (.fexp rd rs1 k) rd [fw (expm (s.rdFp rs1.toNat) (s.readS k).toNat)] s

/-- TOMONT (R147): the product with R2. -/
def execTomont (rd rs1 : WIdx) (s : State) : Host.Outcome State Fault Refusal :=
  command (.tomont rd rs1) rd [fw (mont (s.rdFp rs1.toNat) Config.r2)] s

/-- FROMMONT (R148): the product with the integer 1. -/
def execFrommont (rd rs1 : WIdx) (s : State) : Host.Outcome State Fault Refusal :=
  command (.frommont rd rs1) rd [fw (mont (s.rdFp rs1.toNat) 1)] s

end Sys2Proof.Machine
end

