-- ==== Sys2Proof/Machine/G2Cmds.lean ====
section
/-! DEFINITION. The G2 point adder and doubler (spec/45_g2.md R231 to R235) and the scalar multipliers (spec/46_scalar_mult.md R261,
R264).  None checks that its input is on the curve (R236). -/

namespace Sys2Proof.Machine

open Sys2Proof

/-- G2ADD (R231). -/
def execG2add (rd rs1 rs2 : WIdx) (s : State) : Host.Outcome State Fault Refusal :=
  command (.g2add rd rs1 rs2) rd (pointAdd (s.rdG2 rs1.toNat) (s.rdG2 rs2.toNat)).words s

/-- G2ADDM (R232): the second source is the 4-word affine operand (x, y). -/
def execG2addm (rd rs1 rs2 : WIdx) (s : State) : Host.Outcome State Fault Refusal :=
  command (.g2addm rd rs1 rs2) rd (pointAddMixed (s.rdG2 rs1.toNat) (s.rdAff rs2.toNat)).words s

/-- G2DBL (R233). -/
def execG2dbl (rd rs1 : WIdx) (s : State) : Host.Outcome State Fault Refusal :=
  command (.g2dbl rd rs1) rd (pointDbl (s.rdG2 rs1.toNat)).words s

/-- G2NEG (R234). -/
def execG2neg (rd rs1 : WIdx) (s : State) : Host.Outcome State Fault Refusal :=
  command (.g2neg rd rs1) rd (pointNeg (s.rdG2 rs1.toNat)).words s

/-- G2SUB (R235). -/
def execG2sub (rd rs1 rs2 : WIdx) (s : State) : Host.Outcome State Fault Refusal :=
  command (.g2sub rd rs1 rs2) rd (pointSub (s.rdG2 rs1.toNat) (s.rdG2 rs2.toNat)).words s

/-- G2SMUL (R261). -/
def execG2smul (rd rs1 : WIdx) (k : SIdx) (s : State) : Host.Outcome State Fault Refusal :=
  command (.g2smul rd rs1 k) rd (smul (s.rdG2 rs1.toNat) (s.readS k).toNat).words s

/-- G2SMULW (R264). -/
def execG2smulw (rd rs1 : WIdx) (k : SIdx) (s : State) : Host.Outcome State Fault Refusal :=
  command (.g2smulw rd rs1 k) rd (smulw (s.rdG2 rs1.toNat) (s.readS k).toNat).words s

end Sys2Proof.Machine
end

