-- ==== Sys2Proof/Machine/Dispatch.lean ====
section
/-! DEFINITION. One arm per constructor of Instr, each one direct call of that command's meaning. -/

namespace Sys2Proof.Machine

open Sys2Proof

def exec (i : Instr) (s : State) : Host.Outcome State Fault Refusal :=
  match i with
  | .nop => Sys2Proof.Machine.execNop s
  | .halt => Sys2Proof.Machine.execHalt s
  | .mov rd rs1 n => Sys2Proof.Machine.execMov rd rs1 n s
  | .ldc rd k => Sys2Proof.Machine.execLdc rd k s
  | .fadd rd rs1 rs2 => Sys2Proof.Machine.execFadd rd rs1 rs2 s
  | .fsub rd rs1 rs2 => Sys2Proof.Machine.execFsub rd rs1 rs2 s
  | .fneg rd rs1 => Sys2Proof.Machine.execFneg rd rs1 s
  | .fdbl rd rs1 => Sys2Proof.Machine.execFdbl rd rs1 s
  | .fmul rd rs1 rs2 => Sys2Proof.Machine.execFmul rd rs1 rs2 s
  | .fsqr rd rs1 => Sys2Proof.Machine.execFsqr rd rs1 s
  | .finv rd rs1 mode => Sys2Proof.Machine.execFinv rd rs1 mode s
  | .fexp rd rs1 k => Sys2Proof.Machine.execFexp rd rs1 k s
  | .tomont rd rs1 => Sys2Proof.Machine.execTomont rd rs1 s
  | .frommont rd rs1 => Sys2Proof.Machine.execFrommont rd rs1 s
  | .f2add rd rs1 rs2 => Sys2Proof.Machine.execF2add rd rs1 rs2 s
  | .f2sub rd rs1 rs2 => Sys2Proof.Machine.execF2sub rd rs1 rs2 s
  | .f2neg rd rs1 => Sys2Proof.Machine.execF2neg rd rs1 s
  | .f2dbl rd rs1 => Sys2Proof.Machine.execF2dbl rd rs1 s
  | .f2mul rd rs1 rs2 => Sys2Proof.Machine.execF2mul rd rs1 rs2 s
  | .f2sqr rd rs1 => Sys2Proof.Machine.execF2sqr rd rs1 s
  | .f2inv rd rs1 mode => Sys2Proof.Machine.execF2inv rd rs1 mode s
  | .f2mulnr rd rs1 => Sys2Proof.Machine.execF2mulnr rd rs1 s
  | .f2conj rd rs1 => Sys2Proof.Machine.execF2conj rd rs1 s
  | .f6add rd rs1 rs2 => Sys2Proof.Machine.execF6add rd rs1 rs2 s
  | .f6sub rd rs1 rs2 => Sys2Proof.Machine.execF6sub rd rs1 rs2 s
  | .f6neg rd rs1 => Sys2Proof.Machine.execF6neg rd rs1 s
  | .f6mul rd rs1 rs2 => Sys2Proof.Machine.execF6mul rd rs1 rs2 s
  | .f6mul01 rd rs1 rs2 => Sys2Proof.Machine.execF6mul01 rd rs1 rs2 s
  | .f6mul1 rd rs1 rs2 => Sys2Proof.Machine.execF6mul1 rd rs1 rs2 s
  | .f6sqr rd rs1 => Sys2Proof.Machine.execF6sqr rd rs1 s
  | .f6inv rd rs1 mode => Sys2Proof.Machine.execF6inv rd rs1 mode s
  | .f6mulnr rd rs1 => Sys2Proof.Machine.execF6mulnr rd rs1 s
  | .f12add rd rs1 rs2 => Sys2Proof.Machine.execF12add rd rs1 rs2 s
  | .f12sub rd rs1 rs2 => Sys2Proof.Machine.execF12sub rd rs1 rs2 s
  | .f12mul rd rs1 rs2 => Sys2Proof.Machine.execF12mul rd rs1 rs2 s
  | .f12sqr rd rs1 => Sys2Proof.Machine.execF12sqr rd rs1 s
  | .f12mul014 rd rs1 rs2 => Sys2Proof.Machine.execF12mul014 rd rs1 rs2 s
  | .f12inv rd rs1 mode => Sys2Proof.Machine.execF12inv rd rs1 mode s
  | .f12conj rd rs1 => Sys2Proof.Machine.execF12conj rd rs1 s
  | .g2add rd rs1 rs2 => Sys2Proof.Machine.execG2add rd rs1 rs2 s
  | .g2addm rd rs1 rs2 => Sys2Proof.Machine.execG2addm rd rs1 rs2 s
  | .g2dbl rd rs1 => Sys2Proof.Machine.execG2dbl rd rs1 s
  | .g2neg rd rs1 => Sys2Proof.Machine.execG2neg rd rs1 s
  | .g2sub rd rs1 rs2 => Sys2Proof.Machine.execG2sub rd rs1 rs2 s
  | .g2smul rd rs1 k => Sys2Proof.Machine.execG2smul rd rs1 k s
  | .g2smulw rd rs1 k => Sys2Proof.Machine.execG2smulw rd rs1 k s

end Sys2Proof.Machine
end

