-- ==== Sys2Proof/Machine/Cycle.lean ====
section
/-! DEFINITION. What one step of the core, one bus transaction and one reset pulse do. -/

namespace Sys2Proof.Machine

open Sys2Proof

/-- `core_step()` (R130).  It is enabled only while busy; an idle block waits (R318).  Fetching an entry that has not
been written since reset is the fault of R343. -/
def coreStep (s : State) : Host.Outcome State Fault Refusal :=
  if s.busy then
    match s.fetch with
    | none => .fault (.uninit (.cmd s.pc.toNat))
    | some w =>
      match decode w with
      | .error e => .next (endError (ErrCode.ofDecode e) s.pc w s)
      | .ok i => exec i s
  else .next s

/-- The reset input (R340, R341): every piece of the block's state at once; what is scheduled after it stays. -/
def resetPulse (s : State) : State := { State.reset with script := s.script }

/-- A bus read whose answer the port keeps. -/
def readStep (bytes : Nat) (off : Offset) (s : State) : Host.Outcome State Fault Refusal :=
  match busRead bytes off s with
  | .ok (v, s') => .next { s' with rdata := some v }
  | .error f => .fault f

/-- A bus write. -/
def writeStep (bytes : Nat) (off : Offset) (v : Word32) (s : State) : Host.Outcome State Fault Refusal :=
  match busWrite bytes off v s with
  | .ok s' => .next s'
  | .error f => .fault f

end Sys2Proof.Machine
end

