-- ==== Sys2Proof/Machine/Step.lean ====
section
/-! DEFINITION. One step: what the schedule says happens next, or, when it is empty, a step of the core. -/

namespace Sys2Proof.Machine

open Sys2Proof

/-- One step.  Host and core steps interleave as the schedule says (R82, item 5), and a claim over every schedule
is a claim over every interleaving (R52); with nothing scheduled the core takes every step (R349). -/
def step (s : State) : Host.Outcome State Fault Refusal :=
  match s.script with
  | [] => coreStep s
  | .core :: rest => coreStep { s with script := rest }
  | .read bytes off :: rest => readStep bytes off { s with script := rest }
  | .write bytes off v :: rest => writeStep bytes off v { s with script := rest }
  | .reset :: rest => .next (resetPulse { s with script := rest })

/-- s with one command word stored where the core fetches next, a run in progress there and nothing else scheduled
(notes/assumptions/3.md).  A run in progress has DONE and ERRCODE clear (R42). -/
def State.withFetchWord (s : State) (nbits w : Nat) : State :=
  { s with
    cmd := s.cmd.write s.pc.toNat (BitVec.ofNat 32 (w % 2 ^ nbits))
    busy := true
    done := false
    errcode := .none
    script := [] }

end Sys2Proof.Machine
end

