-- ==== Sys2Proof/Machine/Datapath.lean ====
section
/-! DEFINITION. The datapath forms that the spec gives beside a value formula and calls not observable: the conditional
subtract of R140 and R141, the multiplier's CIOS loop of R145 and the Karatsuba Fp6 product of R193.  No meaning uses
them; the statements say that they give the same words. -/

namespace Sys2Proof.Machine

open Sys2Proof

/-- The adder: one conditional subtraction (R140). -/
def adderPath (a b : Nat) : Nat := if Config.p ≤ a + b then a + b - Config.p else a + b

/-- The subtractor: one conditional addition to the integer difference (R141). -/
def subtractorPath (a b : Nat) : Nat :=
  let d : Int := (a : Int) - (b : Int)
  (if d < 0 then d + Config.p else d).toNat

/-- The negator (R142). -/
def negatorPath (a : Nat) : Nat := if a = 0 then 0 else Config.p - a

/-- One round of the CIOS loop with the limb `bi` of b (R145). -/
def ciosRound (a bi T : Nat) : Nat :=
  let T1 := T + a * bi
  let m := T1 % 2 ^ 64 * Config.pPrime % 2 ^ 64
  (T1 + m * Config.p) / 2 ^ 64

/-- The limb b_i of b = Σ b_i·2^(64i) (R145). -/
def limb (b i : Nat) : Nat := b / 2 ^ (64 * i) % 2 ^ 64

/-- The first k rounds of the loop, i = 0 .. k−1 (R145). -/
def ciosRounds (a b : Nat) : Nat → Nat
  | 0 => 0
  | k + 1 => ciosRound a (limb b k) (ciosRounds a b k)

/-- The word-serial multiplier over six 64-bit limbs with its final subtraction (R145). -/
def cios (a b : Nat) : Nat :=
  let T := ciosRounds a b 6
  if Config.p ≤ T then T - Config.p else T

/-- The six-product Karatsuba form of the dense Fp6 product (R193). -/
def f6mulKaratsuba (a b : Fp6) : Fp6 :=
  let t0 := f2mul a.c0 b.c0
  let t1 := f2mul a.c1 b.c1
  let t2 := f2mul a.c2 b.c2
  ⟨f2add (f2mulnr (f2sub (f2sub (f2mul (f2add a.c1 a.c2) (f2add b.c1 b.c2)) t1) t2)) t0,
   f2add (f2sub (f2sub (f2mul (f2add a.c0 a.c1) (f2add b.c0 b.c1)) t0) t1) (f2mulnr t2),
   f2add (f2sub (f2sub (f2mul (f2add a.c0 a.c2) (f2add b.c0 b.c2)) t0) t2) t1⟩

end Sys2Proof.Machine
end

