-- ==== Sys2Proof/Machine/Uninit.lean ====
section
/-! DEFINITION. The outcome `Uninit` of spec/70_reset_and_hazards.md R343 for W words and scalar registers.  In `step` a
register holds a value after reset, as hardware does; `checkedStep` is the same step with the fault R343 asks of a model
in front of it, so that a claim about it rests on no value a register held before it was written. -/

namespace Sys2Proof.Machine

open Sys2Proof

/-- Visiting the source words of a command in order (R303): the first that has not been written faults, and a
non-canonical one ends the visit, since the check stops there. -/
inductive SourceVisit where
  | unwritten (i : Nat)
  | stopped
  | complete
  deriving DecidableEq, Repr

/-- The visit; `canon` says whether the words are checked (every command but MOV). -/
def visitSources (canon : Bool) (s : State) : List Nat → SourceVisit
  | [] => .complete
  | i :: is =>
    if !s.wWritten i then .unwritten i
    else if canon && !s.canonical i then .stopped
    else visitSources canon s is

/-- The first location not written since reset that this command would read (R303, R343). -/
def commandUninit (i : Instr) (s : State) : Option Storage :=
  if !i.wellFormed || !rangesOk i then none
  else match visitSources (checksCanonical i) s (sourceIndices i) with
    | .unwritten j => some (.w j)
    | .stopped => none
    | .complete =>
      match scalarOf i with
      | some k => if s.sWritten k.toNat then none else some (.s k.toNat)
      | none => none

/-- The first location not written since reset that a core step would read. -/
def coreUninit (s : State) : Option Storage :=
  if s.busy then
    match s.fetch with
    | none => some (.cmd s.pc.toNat)
    | some w =>
      match decode w with
      | .error _ => none
      | .ok i => commandUninit i s
  else none

/-- The location not written since reset that a host read would return bits of.  A refused read returns 0 and reads
nothing (R72, R78). -/
def readUninit (bytes : Nat) (off : Offset) (s : State) : Option Storage :=
  if accessOk bytes off && !s.busy then
    match locate off with
    | .w i _ => if s.wWritten i then none else some (.w i)
    | .s k _ => if s.sWritten k then none else some (.s k)
    | _ => none
  else none

/-- The first location not written since reset that the next step would read, W and S included. -/
def stepUninit (s : State) : Option Storage :=
  match s.script with
  | [] => coreUninit s
  | .core :: _ => coreUninit s
  | .read bytes off :: _ => readUninit bytes off s
  | .write _ _ _ :: _ => none
  | .reset :: _ => none

/-- The step of R343: it faults where the next step would read anything not written since reset. -/
def checkedStep (s : State) : Host.Outcome State Fault Refusal :=
  match stepUninit s with
  | some l => .fault (.uninit l)
  | none => step s

end Sys2Proof.Machine
end

