-- ==== Sys2Proof/Safety.lean ====
section
/-! DEFINITION. What claims about this machine are stated in: the invariant of the state, what a command that completes
leaves, what an error records, the curve, and agreement of two states on what has been written since reset. -/

namespace Sys2Proof

open Sys2Proof.Machine

/-! ## The spec's tables and numbers -/

/-- `x mod p`, the representative in [0, p) of a mathematical integer (spec/00_scope.md R14). -/
def modP (x : Int) : Nat := (x % Config.p).toNat

/-- Opcode and mask of every row of spec/opcode_table.json, in its order (spec/30_encoding.md R103, R104). -/
def opcodeRows : List (Nat × Word32) :=
  [(0x00, 0xffffffff#32), (0x01, 0xffffffff#32), (0x02, 0xff000000#32), (0x03, 0xff00ff00#32), (0x10, 0xff000000#32),
   (0x11, 0xff000000#32), (0x12, 0xff0000ff#32), (0x13, 0xff0000ff#32), (0x14, 0xff000000#32), (0x15, 0xff0000ff#32),
   (0x16, 0xff0000fe#32), (0x17, 0xff0000fc#32), (0x18, 0xff0000ff#32), (0x19, 0xff0000ff#32), (0x20, 0xff000000#32),
   (0x21, 0xff000000#32), (0x22, 0xff0000ff#32), (0x23, 0xff0000ff#32), (0x24, 0xff000000#32), (0x25, 0xff0000ff#32),
   (0x26, 0xff0000fe#32), (0x27, 0xff0000ff#32), (0x28, 0xff0000ff#32), (0x30, 0xff000000#32), (0x31, 0xff000000#32),
   (0x32, 0xff0000ff#32), (0x34, 0xff000000#32), (0x35, 0xff000000#32), (0x36, 0xff000000#32), (0x37, 0xff0000ff#32),
   (0x38, 0xff0000fe#32), (0x39, 0xff0000ff#32), (0x40, 0xff000000#32), (0x41, 0xff000000#32), (0x44, 0xff000000#32),
   (0x45, 0xff0000ff#32), (0x46, 0xff000000#32), (0x48, 0xff0000fe#32), (0x49, 0xff0000ff#32), (0x50, 0xff000000#32),
   (0x51, 0xff000000#32), (0x52, 0xff0000ff#32), (0x53, 0xff0000ff#32), (0x54, 0xff000000#32), (0x58, 0xff0000fc#32),
   (0x59, 0xff0000fc#32)]

/-- The number of an error code (spec/60_exceptions.md R301). -/
def errNumber : ErrCode → Nat
  | .none => 0 | .illegalOpcode => 1 | .reservedField => 2 | .operandRange => 3 | .noncanonical => 4
  | .pcOverflow => 5 | .aborted => 6

/-! ## The invariant -/

/-- The legal values of STATUS: BUSY = 1 implies DONE = 0 and ERRCODE = 0 (spec/10_state.md R42). -/
def StatusLegal (s : State) : Prop := s.busy = true → s.done = false ∧ s.errcode = .none

/-- The invariant of the machine: STATUS is legal and the command memory is in its canonical form. -/
def Inv (s : State) : Prop := StatusLegal s ∧ s.cmd.wf = true

/-! ## Commands -/

/-- A W operand of n words lies in the file (spec/30_encoding.md R101). -/
def FitsW (b : WIdx) (n : Nat) : Prop := b.toNat + n ≤ 256

/-- Every word of a W operand is a canonical field word (spec/60_exceptions.md R303). -/
def CanonW (s : State) (b : WIdx) (n : Nat) : Prop := ∀ j, j < n → (s.readW (b.toNat + j)).toNat < Config.p

/-- W[b], W[b+1], ... hold `ws` in t and count as written; every other word of W, and its marks, is as in s. -/
def WritesWords (b : Nat) (ws : List Word) (s t : State) : Prop :=
  (∀ j (h : j < ws.length), t.readW (b + j) = ws[j] ∧ t.wWritten (b + j) = true) ∧
  (∀ i, i < b ∨ b + ws.length ≤ i → t.readW i = s.readW i ∧ t.wInit[i]? = s.wInit[i]?)

/-- The command completes below address 255: it answers a next state in which its destination holds `ws`, pc has
advanced, and nothing else has changed (spec/40_control.md R130). -/
def Completes (i : Instr) (rd : WIdx) (ws : List Word) (s : State) : Prop :=
  ∃ t, exec i s = .next t ∧ WritesWords rd.toNat ws s t ∧
    t = { s with w := t.w, wInit := t.wInit, pc := s.pc + 1 }

/-- The command ends the run with this error, recorded as spec/60_exceptions.md R304 says, and changes nothing else
(R305). -/
def Raises (i : Instr) (e : ErrCode) (s : State) : Prop :=
  exec i s = .next { s with busy := false, done := true, errcode := e, errpc := s.pc, errcmd := encode i, pc := s.pc }

/-- What a command rule says of a command whose operands fit when `fits` and whose sources are canonical when `canon`:
its opcode, its errors in the order of R303, and its result. -/
def CommandRule (op : Nat) (i : Instr) (fits canon : Prop) (rd : WIdx) (ws : List Word) (s : State) : Prop :=
  (encode i).toNat / 2 ^ 24 = op ∧
  (¬fits → Raises i .operandRange s) ∧
  (fits → ¬canon → Raises i .noncanonical s) ∧
  (fits → canon → s.pc ≠ 255 → Completes i rd ws s)

/-- The field rs2 of this opcode is reserved: a word in which it is not 0 is no command (spec/30_encoding.md R101). -/
def Rs2Reserved (op : BitVec 8) : Prop :=
  ∀ rd rs1 rs2, rs2 ≠ 0 → decode (packFields op rd rs1 rs2) = .error .reservedField

/-! ## Canonical values and the curve -/

/-- Every component of a value is canonical (spec/00_scope.md R21). -/
def Canon2 (a : Fp2) : Prop := a.c0 < Config.p ∧ a.c1 < Config.p
def Canon6 (a : Fp6) : Prop := Canon2 a.c0 ∧ Canon2 a.c1 ∧ Canon2 a.c2
def Canon12 (a : Fp12) : Prop := Canon6 a.c0 ∧ Canon6 a.c1
def CanonG2 (P : G2) : Prop := Canon2 P.X ∧ Canon2 P.Y ∧ Canon2 P.Z

/-- The value b2 = 4 + 4u on words (spec/00_scope.md R13). -/
def b2 : Fp2 := ⟨Config.m4, Config.m4⟩

/-- On the curve: a zero point, or Y² = X³ + b2·Z⁶ (spec/46_scalar_mult.md R266, IsOnCurve). -/
def OnCurve (P : G2) : Prop :=
  iszero P = true ∨
  f2sqr P.Y = f2add (f2mul (f2sqr P.X) P.X) (f2mul (f2mul (f2mul (f2sqr P.Z) (f2sqr P.Z)) (f2sqr P.Z)) b2)

/-- Two representatives of one point (spec/46_scalar_mult.md R266, Equal): both are zero points, or neither is and the
cross products by the squares and the cubes of Z agree. -/
def SamePoint (P Q : G2) : Prop :=
  (iszero P = true ∧ iszero Q = true) ∨
  (iszero P = false ∧ iszero Q = false ∧ f2mul P.X (f2sqr Q.Z) = f2mul Q.X (f2sqr P.Z) ∧
    f2mul P.Y (f2mul Q.Z (f2sqr Q.Z)) = f2mul Q.Y (f2mul P.Z (f2sqr P.Z)))

/-- The sum of n copies of a value, and the product of n copies: the coefficients and powers of the chord and the tangent
law, whatever way the datapath of R231 and R233 makes them. -/
def f2times : Nat → Fp2 → Fp2
  | 0, _ => f2zero
  | n + 1, a => f2add (f2times n a) a
def f2pow (a : Fp2) : Nat → Fp2
  | 0 => f2one
  | n + 1 => f2mul (f2pow a n) a

/-! ## Agreement on what has been written since reset (spec/70_reset_and_hazards.md R343) -/

/-- Two states that differ at most in bus words of W and S that have not been written since reset. -/
def AgreeOnWritten (s t : State) : Prop :=
  t = { s with w := t.w, sc := t.sc } ∧
  (∀ i j, i < 256 → j < 12 → (s.wInit[i]?.getD 0).getLsbD j = true →
    getLane (s.readW i) j = getLane (t.readW i) j) ∧
  (∀ k j, k < 4 → j < 32 → (s.sInit[k]?.getD 0).getLsbD j = true →
    getLane (s.sc[k]?.getD 0) j = getLane (t.sc[k]?.getD 0) j)

/-! ## What the next step would read (spec/70_reset_and_hazards.md R343, spec/60_exceptions.md R303) -/

/-- A storage location counts as written since reset (R343). -/
def Written (s : State) : Storage → Prop
  | .w i => s.wWritten i = true
  | .s k => s.sWritten k = true
  | .cmd a => s.cmd.read a ≠ none

/-- The next step is a step of the core. -/
def CoreTurn (s : State) : Prop := s.script = [] ∨ ∃ rest, s.script = .core :: rest

/-- The check of a command in range comes to source word j: every word before it, in the order of R303, is canonical
(notes/assumptions/10.md).  MOV, which checks nothing, comes to all its words. -/
def Visits (i : Instr) (s : State) (j : Nat) : Prop :=
  rangesOk i = true ∧ ∃ before after, sourceIndices i = before ++ j :: after ∧
    ∀ m ∈ before, checksCanonical i = true → s.canonical m = true

/-- A command that passes the check reads its scalar register (R260). -/
def ReadsScalar (i : Instr) (s : State) (k : SIdx) : Prop :=
  rangesOk i = true ∧ scalarOf i = some k ∧ sourcesCanonical i s = true

/-- The W words and scalar registers the next step would read: those the fetched command visits and its scalar
register, or the one that a host read which is served returns bits of. -/
def WouldRead (s : State) (l : Storage) : Prop :=
  (CoreTurn s ∧ s.busy = true ∧ ∃ w i, s.fetch = some w ∧ decode w = .ok i ∧
    ((∃ j, l = .w j ∧ Visits i s j) ∨ ∃ k, l = .s k.toNat ∧ ReadsScalar i s k)) ∨
  (∃ off rest, s.script = .read 4 off :: rest ∧ off.toNat % 4 = 0 ∧ s.busy = false ∧
    ((∃ i j, l = .w i ∧ locate off = .w i j) ∨ ∃ k j, l = .s k ∧ locate off = .s k j))

end Sys2Proof
end

