-- ==== Sys2Proof/Certificates/Slice0/Obligations.lean ====
section
/-! DEFINITION. The statements for the provers.  The words they are written in (`Completes`, `CommandRule`, `Raises`,
`Inv`, …) are those of Safety.lean. -/

open Sys2Proof Sys2Proof.Machine

/-! ## Encoding -/

/-- Every command's word decodes to that command, with every operand at every value the encoding admits. -/
def Obligations.DecodeOfEncodeIsTheCommand : Prop :=
  ∀ i : Instr, i.wellFormed = true → decode (encode i) = .ok i

/-- Decoding is the procedure of R108 over the masks of R104: the opcode first, then the reserved bits and the legal
values of n and k; what decodes carries every bit of the word. -/
def Obligations.DecodeFollowsTheOpcodeTable : Prop :=
  ∀ w : Word32,
    (decode w = .error .illegalOpcode ↔ ∀ row ∈ opcodeRows, row.1 ≠ w.toNat / 2 ^ 24) ∧
    (decode w = .error .reservedField ↔
      ∃ row ∈ opcodeRows, row.1 = w.toNat / 2 ^ 24 ∧
        (w &&& row.2 ≠ BitVec.ofNat 32 (row.1 * 2 ^ 24) ∨
         (row.1 = 0x02 ∧ ¬(1 ≤ w.toNat % 2 ^ 8 ∧ w.toNat % 2 ^ 8 ≤ 12)) ∨
         (row.1 = 0x03 ∧ ¬w.toNat % 2 ^ 8 ≤ 5))) ∧
    (∀ i, decode w = .ok i → encode i = w ∧ i.wellFormed = true)

/-- Words written out from R100 and R103 decode to the commands they stand for: the twelve of R111 and one or more of
every other family. -/
def Obligations.SpecWordsDecodeToTheirCommands : Prop :=
  decode 0x00000000#32 = .ok .nop ∧
  decode 0x01000000#32 = .ok .halt ∧
  decode 0x02140006#32 = .ok (.mov 20 0 6) ∧
  decode 0x03000004#32 = .ok (.ldc 0 .g2gen) ∧
  decode 0x10030102#32 = .ok (.fadd 3 1 2) ∧
  decode 0x16020101#32 = .ok (.finv 2 1 .egcd) ∧
  decode 0x17040102#32 = .ok (.fexp 4 1 2) ∧
  decode 0x240A0608#32 = .ok (.f2mul 10 6 8) ∧
  decode 0x351E0C28#32 = .ok (.f6mul01 30 12 40) ∧
  decode 0x4618000C#32 = .ok (.f12mul014 24 0 12) ∧
  decode 0x510C0006#32 = .ok (.g2addm 12 0 6) ∧
  decode 0x59060000#32 = .ok (.g2smulw 6 0 0)

/-! ## The command cycle -/

/-- When a run is in progress and the core steps (nothing is scheduled, or a core step is), and the word at pc decodes to
i, the step is `exec i` at that state, with the schedule's head taken off. -/
def Obligations.StepExecutesTheFetchedCommand : Prop :=
  ∀ (s : State) (w : Word32) (i : Instr), s.busy = true → s.fetch = some w → decode w = .ok i →
    (s.script = [] → step s = exec i s) ∧
    (∀ rest, s.script = .core :: rest → step s = exec i { s with script := rest })

/-- A word that does not decode ends the run with its code, recorded as every error is, and writes nothing. -/
def Obligations.UndecodableWordEndsTheRun : Prop :=
  ∀ (s : State) (w : Word32) (e : DecodeError), s.busy = true → s.script = [] → s.fetch = some w →
    decode w = .error e →
    step s = .next { s with
      busy := false, done := true, errpc := s.pc, errcmd := w,
      errcode := match e with
        | .illegalOpcode => .illegalOpcode
        | .reservedField => .reservedField }

/-- The core steps only while busy: an idle block waits, and fetching an entry that has not been written since reset is
the fault Uninit (the model's reading of R343 for command memory, notes/assumptions/2.md). -/
def Obligations.IdleBlockWaitsAndUnwrittenFetchFaults : Prop :=
  ∀ s : State, s.script = [] →
    (s.busy = false → step s = .next s) ∧
    (s.busy = true → s.fetch = none → step s = .fault (.uninit (.cmd s.pc.toNat)))

/-- The check procedure reports the first failure: an illegal MOV count, then a W operand outside the file, then (for
every command but MOV) a source word outside [0, p). -/
def Obligations.CheckReportsTheFirstFailure : Prop :=
  ∀ (i : Instr) (s : State),
    (i.wellFormed = false → check i s = some .reservedField) ∧
    (i.wellFormed = true → (∃ o ∈ operandsOf i, 256 < o.1.toNat + o.2) → check i s = some .operandRange) ∧
    (i.wellFormed = true → (∀ o ∈ operandsOf i, o.1.toNat + o.2 ≤ 256) → (∀ rd a n, i ≠ .mov rd a n) →
      (∃ o ∈ sourcesOf i, ∃ j, j < o.2 ∧ Config.p ≤ (s.readW (o.1.toNat + j)).toNat) → check i s = some .noncanonical) ∧
    (i.wellFormed = true → (∀ o ∈ operandsOf i, o.1.toNat + o.2 ≤ 256) →
      ((∃ rd a n, i = .mov rd a n) ∨
        ∀ o ∈ sourcesOf i, ∀ j, j < o.2 → (s.readW (o.1.toNat + j)).toNat < Config.p) → check i s = none)

/-- A command that fails the check ends the run at its address: STATUS then reads BUSY = 0, DONE = 1, ERRCODE = code and
ACCERR as before, PC and ERRPC hold its address, ERRCMD its word, and nothing else has changed. -/
def Obligations.ErrorsArePreciseAndRecorded : Prop :=
  ∀ (i : Instr) (s : State) (e : ErrCode), check i s = some e →
    ∃ t, exec i s = .next t ∧
      t = { s with busy := false, done := true, errcode := e, errpc := s.pc, errcmd := encode i, pc := s.pc } ∧
      t.statusWord.toNat = 256 * errNumber e + (if s.accerr then 4 else 0) + 2

/-- Which commands can raise which code (R302, the columns of the checks): the three-operand commands have no reserved
field, one-word operands are always in range, and MOV, LDC, NOP and HALT read no field source. -/
def Obligations.CommandsRaiseOnlyTheirCodes : Prop :=
  ∀ (s : State) (rd a b : WIdx) (m : InvMode) (k : SIdx),
    (check .nop s = none ∧ check .halt s = none) ∧
    (∀ n, check (.mov rd a n) s ≠ some .noncanonical) ∧
    (∀ c, check (.ldc rd c) s = none ∨ check (.ldc rd c) s = some .operandRange) ∧
    (∀ i ∈ [Instr.fadd rd a b, .fsub rd a b, .fmul rd a b, .fneg rd a, .fdbl rd a, .fsqr rd a, .tomont rd a,
        .frommont rd a, .finv rd a m, .fexp rd a k], check i s = none ∨ check i s = some .noncanonical) ∧
    (∀ i, check i s ≠ some .illegalOpcode ∧ check i s ≠ some .pcOverflow ∧ check i s ≠ some .aborted ∧
      check i s ≠ some .none)

/-- A command other than HALT that completes at address 255 keeps its writes (they are those it makes at any other
address) and ends the run with PC_OVERFLOW; a HALT there ends the run without error. -/
def Obligations.OverflowAfterTheLastAddress : Prop :=
  ∀ (i : Instr) (s : State), s.pc = 255 →
    (i ≠ .halt → check i s = none →
      ∃ u, exec i { s with pc := 0 } = .next u ∧
        exec i s = .next { s with
          w := u.w, wInit := u.wInit, pc := 255, busy := false, done := true, errcode := .pcOverflow, errpc := 255,
          errcmd := encode i }) ∧
    exec .halt s = .next { s with busy := false, done := true }

/-- A command touches W (only its destination), the marks of W, pc and the record of the run's end; scalar registers,
command memory, ENTRY, IRQ_EN, ACCERR, the schedule and the bus port are as before. -/
def Obligations.CommandsChangeNothingElse : Prop :=
  ∀ (i : Instr) (s t : State), exec i s = .next t →
    t = { s with
      w := t.w, wInit := t.wInit, pc := t.pc, busy := t.busy, done := t.done, errcode := t.errcode, errpc := t.errpc,
      errcmd := t.errcmd } ∧
    (∀ k, (∀ rd n, destOf i = some (rd, n) → k < rd.toNat ∨ rd.toNat + n ≤ k) →
      t.readW k = s.readW k ∧ t.wInit[k]? = s.wInit[k]?)

/-- There is no control transfer: a command goes to the next address and the run goes on, or it ends the run where it
stands with DONE set. -/
def Obligations.CommandsAdvanceOrEndTheRun : Prop :=
  ∀ (i : Instr) (s t : State), exec i s = .next t →
    (s.pc ≠ 255 ∧ t.pc = s.pc + 1 ∧ t.busy = s.busy ∧ t.done = s.done ∧ t.errcode = s.errcode ∧ t.errpc = s.errpc ∧
      t.errcmd = s.errcmd) ∨
    (t.pc = s.pc ∧ t.busy = false ∧ t.done = true)

/-- Every command but MOV that completes leaves only canonical words in its destination. -/
def Obligations.CompletedCommandsWriteCanonicalWords : Prop :=
  ∀ (i : Instr) (s t : State) (rd : WIdx) (n : Nat), (∀ d a c, i ≠ .mov d a c) → destOf i = some (rd, n) →
    check i s = none → exec i s = .next t → ∀ j, j < n → (t.readW (rd.toNat + j)).toNat < Config.p

/-! ## Control and data movement -/

/-- NOP and HALT. -/
def Obligations.NopAndHaltRules : Prop :=
  (∀ s : State,
    encode .nop = 0x00000000#32 ∧
    (s.pc ≠ 255 → exec .nop s = .next { s with pc := s.pc + 1 }) ∧
    (s.pc = 255 → exec .nop s = .next { s with
      busy := false, done := true, errcode := .pcOverflow, errpc := 255, errcmd := 0x00000000#32, pc := 255 }) ∧
    encode .halt = 0x01000000#32 ∧
    exec .halt s = .next { s with busy := false, done := true }) ∧
  (∀ w : Word32, w.toNat / 2 ^ 24 = 0x00 → w ≠ 0x00000000#32 → decode w = .error .reservedField) ∧
  (∀ w : Word32, w.toNat / 2 ^ 24 = 0x01 → w ≠ 0x01000000#32 → decode w = .error .reservedField)

/-- MOV copies n words, canonical or not, read before any is written. -/
def Obligations.MovCopiesWords : Prop :=
  ∀ (s : State) (rd rs1 : WIdx) (n : BitVec 8),
    (¬(1 ≤ n.toNat ∧ n.toNat ≤ 12) → decode (packFields 0x02 rd rs1 n) = .error .reservedField) ∧
    (1 ≤ n.toNat ∧ n.toNat ≤ 12 →
      CommandRule 0x02 (.mov rd rs1 n) (FitsW rd n.toNat ∧ FitsW rs1 n.toNat) True rd
        ((List.range n.toNat).map fun j => s.readW (rs1.toNat + j)) s)

/-- LDC writes the constant its selector names, as Montgomery words of the values of R13. -/
def Obligations.LdcLoadsConstants : Prop :=
  ∀ (s : State) (rd : WIdx),
    (∀ rs1 k : BitVec 8, rs1 ≠ 0 ∨ 5 < k.toNat → decode (packFields 0x03 rd rs1 k) = .error .reservedField) ∧
    CommandRule 0x03 (.ldc rd .zero) True True rd [fw 0] s ∧
    CommandRule 0x03 (.ldc rd .one) True True rd [fw (2 ^ 384 % Config.p)] s ∧
    CommandRule 0x03 (.ldc rd .r2) True True rd [fw (2 ^ 768 % Config.p)] s ∧
    CommandRule 0x03 (.ldc rd .g2zero) (FitsW rd 6) True rd [fw 0, fw 0, fw (toMont 1), fw 0, fw 0, fw 0] s ∧
    CommandRule 0x03 (.ldc rd .g2gen) (FitsW rd 6) True rd
      [fw (toMont Config.genX0), fw (toMont Config.genX1), fw (toMont Config.genY0), fw (toMont Config.genY1),
        fw (toMont 1), fw 0] s ∧
    CommandRule 0x03 (.ldc rd .b2) (FitsW rd 2) True rd [fw (toMont 4), fw (toMont 4)] s

/-! ## Fp -/

/-- FADD, FSUB, FNEG and FDBL: one conditional subtraction or addition of p. -/
def Obligations.FpAdditionRules : Prop :=
  ∀ (s : State) (rd rs1 rs2 : WIdx),
    let a := (s.readW rs1.toNat).toNat
    let b := (s.readW rs2.toNat).toNat
    CommandRule 0x10 (.fadd rd rs1 rs2) True (a < Config.p ∧ b < Config.p) rd
      [fw (if Config.p ≤ a + b then a + b - Config.p else a + b)] s ∧
    CommandRule 0x11 (.fsub rd rs1 rs2) True (a < Config.p ∧ b < Config.p) rd
      [fw (if (a : Int) - b < 0 then (a : Int) - b + Config.p else (a : Int) - b).toNat] s ∧
    CommandRule 0x12 (.fneg rd rs1) True (a < Config.p) rd [fw (if a = 0 then 0 else Config.p - a)] s ∧
    CommandRule 0x13 (.fdbl rd rs1) True (a < Config.p) rd
      [fw (if Config.p ≤ a + a then a + a - Config.p else a + a)] s ∧
    Rs2Reserved 0x12 ∧ Rs2Reserved 0x13

/-- FMUL and FSQR: the canonical word c with c · 2^384 ≡ a · b (mod p). -/
def Obligations.FpMontgomeryProductRules : Prop :=
  ∀ (s : State) (rd rs1 rs2 : WIdx),
    let a := (s.readW rs1.toNat).toNat
    let b := (s.readW rs2.toNat).toNat
    (∃ c, c < Config.p ∧ c * 2 ^ 384 % Config.p = a * b % Config.p ∧
      CommandRule 0x14 (.fmul rd rs1 rs2) True (a < Config.p ∧ b < Config.p) rd [fw c] s) ∧
    (∃ c, c < Config.p ∧ c * 2 ^ 384 % Config.p = a * a % Config.p ∧
      CommandRule 0x15 (.fsqr rd rs1) True (a < Config.p) rd [fw c] s) ∧
    Rs2Reserved 0x15

/-- TOMONT writes M(x), FROMMONT val(w), and the second undoes the first. -/
def Obligations.MontgomeryConversionRules : Prop :=
  (∀ (s : State) (rd rs1 : WIdx),
    let a := (s.readW rs1.toNat).toNat
    CommandRule 0x18 (.tomont rd rs1) True (a < Config.p) rd [fw (a * 2 ^ 384 % Config.p)] s ∧
    (∃ c, c < Config.p ∧ c * 2 ^ 384 % Config.p = a % Config.p ∧
      CommandRule 0x19 (.frommont rd rs1) True (a < Config.p) rd [fw c] s)) ∧
  (∀ x, x < Config.p → mont (x * 2 ^ 384 % Config.p) 1 = x) ∧
  Rs2Reserved 0x18 ∧ Rs2Reserved 0x19

/-- FEXP writes M(val(a)^e mod p) for the whole 1024-bit scalar e, and M(1) for e = 0 whatever a is. -/
def Obligations.FexpRule : Prop :=
  (∀ (s : State) (rd rs1 : WIdx) (k : SIdx),
    let a := (s.readW rs1.toNat).toNat
    CommandRule 0x17 (.fexp rd rs1 k) True (a < Config.p) rd
      [fw (valOf a ^ (s.readS k).toNat % Config.p * 2 ^ 384 % Config.p)] s) ∧
  (∀ rd rs1 rs2 : BitVec 8, 3 < rs2.toNat → decode (packFields 0x17 rd rs1 rs2) = .error .reservedField)

/-- FINV: one word c, the same in both modes, is M(val(a)^(p−2) mod p); it is 0 for a = 0, and for a ≠ 0 the Montgomery
product of a and c is ONE. -/
def Obligations.FinvInvertsInBothModes : Prop :=
  (∀ (s : State) (rd rs1 : WIdx),
    let a := (s.readW rs1.toNat).toNat
    ∃ c, c < Config.p ∧
      (∀ mode, CommandRule 0x16 (.finv rd rs1 mode) True (a < Config.p) rd [fw c] s) ∧
      (a < Config.p →
        c = valOf a ^ (Config.p - 2) % Config.p * 2 ^ 384 % Config.p ∧
        (a = 0 → c = 0) ∧ (a ≠ 0 → mont a c = Config.one))) ∧
  (∀ rd rs1 rs2 : BitVec 8, 1 < rs2.toNat → decode (packFields 0x16 rd rs1 rs2) = .error .reservedField)

/-- The multiplier's word-serial loop gives the Montgomery product. -/
def Obligations.CiosLoopIsTheMontgomeryProduct : Prop :=
  ∀ a b : Nat, a < Config.p → b < Config.p → cios a b = mont a b

/-! ## Fp2 -/

/-- F2ADD, F2SUB, F2NEG, F2DBL, F2MULNR and F2CONJ, component by component. -/
def Obligations.Fp2LinearRules : Prop :=
  ∀ (s : State) (rd rs1 rs2 : WIdx),
    let a0 : Int := (s.readW rs1.toNat).toNat
    let a1 : Int := (s.readW (rs1.toNat + 1)).toNat
    let b0 : Int := (s.readW rs2.toNat).toNat
    let b1 : Int := (s.readW (rs2.toNat + 1)).toNat
    let fits3 := FitsW rd 2 ∧ FitsW rs1 2 ∧ FitsW rs2 2
    let fits2 := FitsW rd 2 ∧ FitsW rs1 2
    CommandRule 0x20 (.f2add rd rs1 rs2) fits3 (CanonW s rs1 2 ∧ CanonW s rs2 2) rd
      [fw (modP (a0 + b0)), fw (modP (a1 + b1))] s ∧
    CommandRule 0x21 (.f2sub rd rs1 rs2) fits3 (CanonW s rs1 2 ∧ CanonW s rs2 2) rd
      [fw (modP (a0 - b0)), fw (modP (a1 - b1))] s ∧
    CommandRule 0x22 (.f2neg rd rs1) fits2 (CanonW s rs1 2) rd [fw (modP (-a0)), fw (modP (-a1))] s ∧
    CommandRule 0x23 (.f2dbl rd rs1) fits2 (CanonW s rs1 2) rd [fw (modP (2 * a0)), fw (modP (2 * a1))] s ∧
    CommandRule 0x27 (.f2mulnr rd rs1) fits2 (CanonW s rs1 2) rd [fw (modP (a0 - a1)), fw (modP (a0 + a1))] s ∧
    CommandRule 0x28 (.f2conj rd rs1) fits2 (CanonW s rs1 2) rd [fw (modP a0), fw (modP (-a1))] s ∧
    Rs2Reserved 0x22 ∧ Rs2Reserved 0x23 ∧ Rs2Reserved 0x27 ∧ Rs2Reserved 0x28

/-- F2MUL and F2SQR give the words of the schoolbook product with u² = −1. -/
def Obligations.Fp2ProductRules : Prop :=
  ∀ (s : State) (rd rs1 rs2 : WIdx),
    let a0 : Int := (s.readW rs1.toNat).toNat
    let a1 : Int := (s.readW (rs1.toNat + 1)).toNat
    let b0 : Int := (s.readW rs2.toNat).toNat
    let b1 : Int := (s.readW (rs2.toNat + 1)).toNat
    (∃ c0 c1 : Nat, c0 < Config.p ∧ c1 < Config.p ∧
      (c0 : Int) * 2 ^ 384 ≡ a0 * b0 - a1 * b1 [ZMOD Config.p] ∧
      (c1 : Int) * 2 ^ 384 ≡ a0 * b1 + a1 * b0 [ZMOD Config.p] ∧
      CommandRule 0x24 (.f2mul rd rs1 rs2) (FitsW rd 2 ∧ FitsW rs1 2 ∧ FitsW rs2 2)
        (CanonW s rs1 2 ∧ CanonW s rs2 2) rd [fw c0, fw c1] s) ∧
    (∃ c0 c1 : Nat, c0 < Config.p ∧ c1 < Config.p ∧
      (c0 : Int) * 2 ^ 384 ≡ a0 * a0 - a1 * a1 [ZMOD Config.p] ∧
      (c1 : Int) * 2 ^ 384 ≡ 2 * a0 * a1 [ZMOD Config.p] ∧
      CommandRule 0x25 (.f2sqr rd rs1) (FitsW rd 2 ∧ FitsW rs1 2) (CanonW s rs1 2) rd [fw c0, fw c1] s) ∧
    Rs2Reserved 0x25

/-- F2INV: one value, the same in both modes, is 0 for 0 and the inverse of every other operand. -/
def Obligations.F2invInvertsInBothModes : Prop :=
  (∀ (s : State) (rd rs1 : WIdx),
    let a := s.rdFp2 rs1.toNat
    ∃ c : Fp2, Canon2 c ∧
      (∀ mode, CommandRule 0x26 (.f2inv rd rs1 mode) (FitsW rd 2 ∧ FitsW rs1 2) (CanonW s rs1 2) rd
        [fw c.c0, fw c.c1] s) ∧
      (CanonW s rs1 2 → (a = f2zero → c = f2zero) ∧ (a ≠ f2zero → f2mul a c = f2one))) ∧
  (∀ rd rs1 rs2 : BitVec 8, 1 < rs2.toNat → decode (packFields 0x26 rd rs1 rs2) = .error .reservedField)

/-! ## Fp6 -/

/-- F6ADD, F6SUB, F6NEG on all six words, and F6MULNR. -/
def Obligations.Fp6LinearRules : Prop :=
  ∀ (s : State) (rd rs1 rs2 : WIdx),
    let a (j : Nat) : Int := (s.readW (rs1.toNat + j)).toNat
    let b (j : Nat) : Int := (s.readW (rs2.toNat + j)).toNat
    let fits3 := FitsW rd 6 ∧ FitsW rs1 6 ∧ FitsW rs2 6
    let fits2 := FitsW rd 6 ∧ FitsW rs1 6
    CommandRule 0x30 (.f6add rd rs1 rs2) fits3 (CanonW s rs1 6 ∧ CanonW s rs2 6) rd
      ((List.range 6).map fun j => fw (modP (a j + b j))) s ∧
    CommandRule 0x31 (.f6sub rd rs1 rs2) fits3 (CanonW s rs1 6 ∧ CanonW s rs2 6) rd
      ((List.range 6).map fun j => fw (modP (a j - b j))) s ∧
    CommandRule 0x32 (.f6neg rd rs1) fits2 (CanonW s rs1 6) rd ((List.range 6).map fun j => fw (modP (-a j))) s ∧
    CommandRule 0x39 (.f6mulnr rd rs1) fits2 (CanonW s rs1 6) rd
      [fw (modP (a 4 - a 5)), fw (modP (a 4 + a 5)), fw (modP (a 0)), fw (modP (a 1)), fw (modP (a 2)),
        fw (modP (a 3))] s ∧
    Rs2Reserved 0x32 ∧ Rs2Reserved 0x39

/-- F6MUL and F6SQR give the words of the value formula, and the six-product Karatsuba datapath gives the same. -/
def Obligations.Fp6ProductRules : Prop :=
  ∀ (s : State) (rd rs1 rs2 : WIdx),
    let a := s.rdFp6 rs1.toNat
    let b := s.rdFp6 rs2.toNat
    let value (x y : Fp6) : Fp6 :=
      ⟨f2add (f2mul x.c0 y.c0) (f2mulnr (f2add (f2mul x.c1 y.c2) (f2mul x.c2 y.c1))),
       f2add (f2add (f2mul x.c0 y.c1) (f2mul x.c1 y.c0)) (f2mulnr (f2mul x.c2 y.c2)),
       f2add (f2add (f2mul x.c0 y.c2) (f2mul x.c1 y.c1)) (f2mul x.c2 y.c0)⟩
    CommandRule 0x34 (.f6mul rd rs1 rs2) (FitsW rd 6 ∧ FitsW rs1 6 ∧ FitsW rs2 6) (CanonW s rs1 6 ∧ CanonW s rs2 6) rd
      (value a b).words s ∧
    CommandRule 0x37 (.f6sqr rd rs1) (FitsW rd 6 ∧ FitsW rs1 6) (CanonW s rs1 6) rd (value a a).words s ∧
    Rs2Reserved 0x37 ∧
    (∀ x y : Fp6, Canon6 x → Canon6 y → f6mulKaratsuba x y = value x y)

/-- F6MUL01 and F6MUL1 give, word for word, the dense product by (b0, b1, 0) and by (0, b1, 0). -/
def Obligations.SparseFp6ProductsEqualDense : Prop :=
  ∀ (s : State) (rd rs1 rs2 : WIdx),
    let a := s.rdFp6 rs1.toNat
    let b0 := s.rdFp2 rs2.toNat
    let b1 := s.rdFp2 (rs2.toNat + 2)
    CommandRule 0x35 (.f6mul01 rd rs1 rs2) (FitsW rd 6 ∧ FitsW rs1 6 ∧ FitsW rs2 4)
      (CanonW s rs1 6 ∧ CanonW s rs2 4) rd (f6mul a ⟨b0, b1, f2zero⟩).words s ∧
    CommandRule 0x36 (.f6mul1 rd rs1 rs2) (FitsW rd 6 ∧ FitsW rs1 6 ∧ FitsW rs2 2)
      (CanonW s rs1 6 ∧ CanonW s rs2 2) rd (f6mul a ⟨f2zero, b0, f2zero⟩).words s

/-- F6INV and F12INV complete with the words of their norm formulas, the same in both modes, and 0 inverts to 0. -/
def Obligations.TowerInversionRules : Prop :=
  (∀ (s : State) (rd rs1 : WIdx) (mode : InvMode),
    CommandRule 0x38 (.f6inv rd rs1 mode) (FitsW rd 6 ∧ FitsW rs1 6) (CanonW s rs1 6) rd
      (f6inv .fermat (s.rdFp6 rs1.toNat)).words s ∧
    CommandRule 0x48 (.f12inv rd rs1 mode) (FitsW rd 12 ∧ FitsW rs1 12) (CanonW s rs1 12) rd
      (f12inv .fermat (s.rdFp12 rs1.toNat)).words s) ∧
  f6inv .fermat f6zero = f6zero ∧
  f12inv .fermat ⟨f6zero, f6zero⟩ = ⟨f6zero, f6zero⟩ ∧
  (∀ rd rs1 rs2 : BitVec 8, 1 < rs2.toNat → decode (packFields 0x38 rd rs1 rs2) = .error .reservedField ∧
    decode (packFields 0x48 rd rs1 rs2) = .error .reservedField)

/-- The Fp6 inverse inverts: a·inverse(a) = 1 for every canonical a ≠ 0, in both modes. -/
def Obligations.F6invInverts : Prop :=
  ∀ (mode : InvMode) (a : Fp6), Canon6 a → a ≠ f6zero → f6mul a (f6inv mode a) = f6one

/-! ## Fp12 -/

/-- F12ADD and F12SUB on all twelve words, and F12CONJ. -/
def Obligations.Fp12LinearRules : Prop :=
  ∀ (s : State) (rd rs1 rs2 : WIdx),
    let a (j : Nat) : Int := (s.readW (rs1.toNat + j)).toNat
    let b (j : Nat) : Int := (s.readW (rs2.toNat + j)).toNat
    CommandRule 0x40 (.f12add rd rs1 rs2) (FitsW rd 12 ∧ FitsW rs1 12 ∧ FitsW rs2 12)
      (CanonW s rs1 12 ∧ CanonW s rs2 12) rd ((List.range 12).map fun j => fw (modP (a j + b j))) s ∧
    CommandRule 0x41 (.f12sub rd rs1 rs2) (FitsW rd 12 ∧ FitsW rs1 12 ∧ FitsW rs2 12)
      (CanonW s rs1 12 ∧ CanonW s rs2 12) rd ((List.range 12).map fun j => fw (modP (a j - b j))) s ∧
    CommandRule 0x49 (.f12conj rd rs1) (FitsW rd 12 ∧ FitsW rs1 12) (CanonW s rs1 12) rd
      ((List.range 12).map fun j => fw (modP (if j < 6 then a j else -a j))) s ∧
    Rs2Reserved 0x49

/-- F12MUL and F12SQR give the words of a0·b0 + v·a1·b1 and a0·b1 + a1·b0. -/
def Obligations.Fp12ProductRules : Prop :=
  ∀ (s : State) (rd rs1 rs2 : WIdx),
    let a := s.rdFp12 rs1.toNat
    let b := s.rdFp12 rs2.toNat
    let value (x y : Fp12) : Fp12 :=
      ⟨f6add (f6mul x.c0 y.c0) (f6mulnr (f6mul x.c1 y.c1)), f6add (f6mul x.c0 y.c1) (f6mul x.c1 y.c0)⟩
    CommandRule 0x44 (.f12mul rd rs1 rs2) (FitsW rd 12 ∧ FitsW rs1 12 ∧ FitsW rs2 12)
      (CanonW s rs1 12 ∧ CanonW s rs2 12) rd (value a b).words s ∧
    CommandRule 0x45 (.f12sqr rd rs1) (FitsW rd 12 ∧ FitsW rs1 12) (CanonW s rs1 12) rd (value a a).words s ∧
    Rs2Reserved 0x45

/-- F12MUL014 gives, word for word, the dense product by the line {[l0, l1, 0] ; [0, l4, 0]}. -/
def Obligations.LineProductEqualsDense : Prop :=
  ∀ (s : State) (rd rs1 rs2 : WIdx),
    let a := s.rdFp12 rs1.toNat
    let l0 := s.rdFp2 rs2.toNat
    let l1 := s.rdFp2 (rs2.toNat + 2)
    let l4 := s.rdFp2 (rs2.toNat + 4)
    CommandRule 0x46 (.f12mul014 rd rs1 rs2) (FitsW rd 12 ∧ FitsW rs1 12 ∧ FitsW rs2 6)
      (CanonW s rs1 12 ∧ CanonW s rs2 6) rd (f12mul a ⟨⟨l0, l1, f2zero⟩, ⟨f2zero, l4, f2zero⟩⟩).words s

/-- The Fp12 inverse inverts: a·inverse(a) = 1 for every canonical a ≠ 0, in both modes. -/
def Obligations.F12invInverts : Prop :=
  ∀ (mode : InvMode) (a : Fp12), Canon12 a → a ≠ ⟨f6zero, f6zero⟩ → f12mul a (f12inv mode a) = f12one

/-! ## G2 -/

/-- G2ADD completes on every pair of canonical points, and dispatches: a zero operand gives a word copy of the other,
equal affine points the doubling, inverse points G2ZERO, and any other pair the chord law: with H = U2 − U1 and
R = S2 − S1, X3 = 4R² − 4H³ − 8·U1·H², Y3 = 2R·(4·U1·H² − X3) − 8·S1·H³ and Z3 = 2·Z1·Z2·H.  P + P is the doubling word
for word. -/
def Obligations.G2addDispatch : Prop :=
  (∀ (s : State) (rd rs1 rs2 : WIdx),
    CommandRule 0x50 (.g2add rd rs1 rs2) (FitsW rd 6 ∧ FitsW rs1 6 ∧ FitsW rs2 6) (CanonW s rs1 6 ∧ CanonW s rs2 6) rd
      (pointAdd (s.rdG2 rs1.toNat) (s.rdG2 rs2.toNat)).words s) ∧
  (∀ P Q : G2, CanonG2 P → CanonG2 Q →
    let U1 := f2mul P.X (f2sqr Q.Z)
    let U2 := f2mul Q.X (f2sqr P.Z)
    let S1 := f2mul P.Y (f2mul Q.Z (f2sqr Q.Z))
    let S2 := f2mul Q.Y (f2mul P.Z (f2sqr P.Z))
    (P.Z = f2zero → pointAdd P Q = Q) ∧
    (P.Z ≠ f2zero → Q.Z = f2zero → pointAdd P Q = P) ∧
    (P.Z ≠ f2zero → Q.Z ≠ f2zero → U1 = U2 → S1 = S2 → pointAdd P Q = pointDbl P) ∧
    (P.Z ≠ f2zero → Q.Z ≠ f2zero → U1 = U2 → S1 ≠ S2 → pointAdd P Q = ⟨f2zero, f2one, f2zero⟩) ∧
    (P.Z ≠ f2zero → Q.Z ≠ f2zero → U1 ≠ U2 →
      let H := f2sub U2 U1
      let R := f2sub S2 S1
      let T := pointAdd P Q
      T.X = f2sub (f2sub (f2times 4 (f2pow R 2)) (f2times 4 (f2pow H 3))) (f2times 8 (f2mul U1 (f2pow H 2))) ∧
      T.Y = f2sub (f2mul (f2times 2 R) (f2sub (f2times 4 (f2mul U1 (f2pow H 2))) T.X))
        (f2times 8 (f2mul S1 (f2pow H 3))) ∧
      T.Z = f2mul (f2times 2 (f2mul P.Z Q.Z)) H) ∧
    pointAdd P P = pointDbl P)

/-- G2ADDM gives, word for word, what G2ADD gives with the affine operand extended by Z = ONE. -/
def Obligations.MixedAdditionEqualsFullAddition : Prop :=
  ∀ (s : State) (rd rs1 rs2 : WIdx),
    CommandRule 0x51 (.g2addm rd rs1 rs2) (FitsW rd 6 ∧ FitsW rs1 6 ∧ FitsW rs2 4) (CanonW s rs1 6 ∧ CanonW s rs2 4) rd
      (pointAdd (s.rdG2 rs1.toNat) ⟨s.rdFp2 rs2.toNat, s.rdFp2 (rs2.toNat + 2), f2one⟩).words s

/-- G2DBL, G2NEG and G2SUB complete; a zero point doubles to itself, a point with Y = 0 to a zero point, and any point
that is not zero by the tangent law X3 = 9X⁴ − 8XY², Y3 = 3X²·(4XY² − X3) − 8Y⁴, Z3 = 2YZ; negation changes Y alone, and
subtraction adds the negation. -/
def Obligations.G2DoubleNegateSubtractRules : Prop :=
  (∀ (s : State) (rd rs1 rs2 : WIdx),
    let P := s.rdG2 rs1.toNat
    let w (j : Nat) := s.readW (rs1.toNat + j)
    let minus (j : Nat) := fw (modP (-((s.readW (rs1.toNat + j)).toNat : Int)))
    CommandRule 0x52 (.g2dbl rd rs1) (FitsW rd 6 ∧ FitsW rs1 6) (CanonW s rs1 6) rd (pointDbl P).words s ∧
    CommandRule 0x53 (.g2neg rd rs1) (FitsW rd 6 ∧ FitsW rs1 6) (CanonW s rs1 6) rd
      [w 0, w 1, minus 2, minus 3, w 4, w 5] s ∧
    CommandRule 0x54 (.g2sub rd rs1 rs2) (FitsW rd 6 ∧ FitsW rs1 6 ∧ FitsW rs2 6) (CanonW s rs1 6 ∧ CanonW s rs2 6) rd
      (pointAdd P ⟨s.rdFp2 rs2.toNat, f2neg (s.rdFp2 (rs2.toNat + 2)), s.rdFp2 (rs2.toNat + 4)⟩).words s) ∧
  (∀ P : G2, CanonG2 P →
    (P.Z = f2zero → pointDbl P = P) ∧ (P.Y = f2zero → (pointDbl P).Z = f2zero) ∧
    (P.Z ≠ f2zero →
      let XYY := f2mul P.X (f2pow P.Y 2)
      let D := pointDbl P
      D.X = f2sub (f2times 9 (f2pow P.X 4)) (f2times 8 XYY) ∧
      D.Y = f2sub (f2mul (f2times 3 (f2pow P.X 2)) (f2sub (f2times 4 XYY) D.X)) (f2times 8 (f2pow P.Y 4)) ∧
      D.Z = f2mul (f2times 2 P.Y) P.Z)) ∧
  Rs2Reserved 0x52 ∧ Rs2Reserved 0x53

/-- The results of the point commands on points of the curve are on the curve. -/
def Obligations.PointCommandsStayOnTheCurve : Prop :=
  ∀ P Q : G2, CanonG2 P → CanonG2 Q → OnCurve P → OnCurve Q →
    OnCurve (pointAdd P Q) ∧ OnCurve (pointDbl P) ∧ OnCurve (pointNeg P) ∧ OnCurve (pointSub P Q) ∧
    (Q.Z = f2one → OnCurve (pointAddMixed P ⟨Q.X, Q.Y⟩))

/-- Both scalar multipliers of an on-curve point give a point of the curve, for every scalar. -/
def Obligations.ScalarMultiplesStayOnTheCurve : Prop :=
  ∀ (P : G2) (e : Nat), CanonG2 P → OnCurve P → e < 2 ^ 1024 →
    CanonG2 (smul P e) ∧ OnCurve (smul P e) ∧ CanonG2 (smulw P e) ∧ OnCurve (smulw P e)

/-- G2SMUL is double-and-add over the bits of the scalar, least significant first, and may stop after the highest
set bit; 0 gives G2ZERO, 1 a word copy, and a zero point a zero point. -/
def Obligations.G2smulIsDoubleAndAdd : Prop :=
  (∀ (s : State) (rd rs1 : WIdx) (k : SIdx),
    let P := s.rdG2 rs1.toNat
    let e := (s.readS k).toNat
    CommandRule 0x58 (.g2smul rd rs1 k) (FitsW rd 6 ∧ FitsW rs1 6) (CanonW s rs1 6) rd
      ((Nat.bits e).foldl (fun (st : G2 × G2) (b : Bool) => (if b then pointAdd st.1 st.2 else st.1, pointDbl st.2))
        (⟨f2zero, f2one, f2zero⟩, P)).1.words s) ∧
  (∀ P : G2, smul P 0 = ⟨f2zero, f2one, f2zero⟩ ∧ smul P 1 = P ∧
    ∀ e, P.Z = f2zero → (smul P e).Z = f2zero) ∧
  (∀ rd rs1 rs2 : BitVec 8, 3 < rs2.toNat → decode (packFields 0x58 rd rs1 rs2) = .error .reservedField)

/-- The recoding of R262: every digit is 0 or odd with |d| ≤ 31, two non-zero digits are at least 6 positions apart, the
most significant digit is not 0, there are at most 1025 digits (2^1024 − 1 has 1025), and e = Σ d_i·2^i; with the
rule's four examples. -/
def Obligations.WnafRecodingRepresentsTheScalar : Prop :=
  naf 31 = [31] ∧ naf 33 = [-31, 0, 0, 0, 0, 0, 1] ∧ naf 63 = [-1, 0, 0, 0, 0, 0, 1] ∧ naf 100 = [0, 0, 25] ∧
  (naf (2 ^ 1024 - 1)).length = 1025 ∧
  ∀ e : Nat, e < 2 ^ 1024 →
    (∀ d ∈ naf e, d = 0 ∨ (d % 2 = 1 ∧ -31 ≤ d ∧ d ≤ 31)) ∧
    (∀ i j, i < j → (naf e).getD i 0 ≠ 0 → (naf e).getD j 0 ≠ 0 → i + 6 ≤ j) ∧
    (naf e).getLast? ≠ some 0 ∧
    (naf e).length ≤ 1025 ∧
    (naf e).foldr (fun d acc => d + 2 * acc) 0 = (e : Int)

/-- G2SMULW is the windowed loop over the recoding's digits from the most significant, adding the odd multiple
|d|·P = P + (|d|−1)/2 · 2P or its negation; the doublings before the first non-zero digit may as well be made. -/
def Obligations.G2smulwIsTheWindowedLoop : Prop :=
  (∀ (s : State) (rd rs1 : WIdx) (k : SIdx),
    let P := s.rdG2 rs1.toNat
    let odd (j : Nat) : G2 := (fun acc => pointAdd acc (pointDbl P))^[j] P
    CommandRule 0x59 (.g2smulw rd rs1 k) (FitsW rd 6 ∧ FitsW rs1 6) (CanonW s rs1 6) rd
      ((naf (s.readS k).toNat).reverse.foldl
        (fun (q : G2) (d : Int) =>
          if d = 0 then pointDbl q
          else if 0 < d then pointAdd (pointDbl q) (odd ((d.natAbs - 1) / 2))
          else pointAdd (pointDbl q) (pointNeg (odd ((d.natAbs - 1) / 2))))
        ⟨f2zero, f2one, f2zero⟩).words s) ∧
  (∀ P : G2, smulw P 0 = ⟨f2zero, f2one, f2zero⟩ ∧ smulw P 1 = P) ∧
  (∀ rd rs1 rs2 : BitVec 8, 3 < rs2.toNat → decode (packFields 0x59 rd rs1 rs2) = .error .reservedField)

/-- The two multipliers give the same point for every point of the curve, zero points included, and every scalar; their
words may differ. -/
def Obligations.MultipliersAgreeOnTheCurve : Prop :=
  ∀ (P : G2) (e : Nat), CanonG2 P → OnCurve P → e < 2 ^ 1024 → SamePoint (smulw P e) (smul P e)

/-! ## The start and the end of a run -/

/-- A write to CTRL while idle: START loads pc from ENTRY and begins a run; without START only IRQ_EN changes. -/
def Obligations.CtrlWriteWhileIdle : Prop :=
  ∀ (s : State) (v : Word32) (rest : List Action), s.script = .write 4 0x000C v :: rest → s.busy = false →
    (v.getLsbD 0 = true → step s = .next { s with
      script := rest, irqEn := v.getLsbD 2, pc := s.entry, errcode := .none, done := false, busy := true }) ∧
    (v.getLsbD 0 = false → step s = .next { s with script := rest, irqEn := v.getLsbD 2 })

/-- A write to CTRL while busy: ABORT ends the run at pc, where no command has begun, and START is refused with
ACCERR.  Where the command entry that an ABORT would record has not been written since reset the step is the fault Uninit:
the model's choice, notes/assumptions/2.md. -/
def Obligations.CtrlWriteWhileBusy : Prop :=
  ∀ (s : State) (v : Word32) (rest : List Action), s.script = .write 4 0x000C v :: rest → s.busy = true →
    (v.getLsbD 1 = false → step s = .next { s with
      script := rest, irqEn := v.getLsbD 2, accerr := s.accerr || v.getLsbD 0 }) ∧
    (∀ w, v.getLsbD 1 = true → s.fetch = some w → step s = .next { s with
      script := rest, irqEn := v.getLsbD 2, accerr := s.accerr || v.getLsbD 0, busy := false, done := true,
      errcode := .aborted, errpc := s.pc, errcmd := w }) ∧
    (v.getLsbD 1 = true → s.fetch = none → step s = .fault (.uninit (.cmd s.pc.toNat)))

/-- Every run ends: from any state with a run in progress, nothing scheduled and every command entry from pc on
written, some number of core steps, at most 256 − pc, reaches an idle state with DONE set. -/
def Obligations.EveryRunEndsWithin256Steps : Prop :=
  ∀ s : State, s.script = [] → s.busy = true → (∀ a, s.pc.toNat ≤ a → a < 256 → s.cmd.read a ≠ none) →
    ∃ (k : Nat) (t : State), k ≤ 256 - s.pc.toNat ∧ Sys2Proof.core.run k s = .next t ∧ t.busy = false ∧ t.done = true

/-- A run ends with DONE set, whatever ends it but reset, so that irq then is IRQ_EN; and irq is never anything but
IRQ_EN AND DONE. -/
def Obligations.RunEndsRaiseDoneAndIrq : Prop :=
  (∀ s : State, s.irq = true ↔ s.irqEn = true ∧ s.done = true) ∧
  (∀ s t : State, (∀ rest, s.script ≠ .reset :: rest) → step s = .next t → s.busy = true → t.busy = false →
    t.done = true ∧ t.irq = t.irqEn)

/-- Reset, at any moment: every piece of the block's state takes its value of R51; what is scheduled stays. -/
def Obligations.ResetRestoresTheControlState : Prop :=
  ∀ (s : State) (rest : List Action), s.script = .reset :: rest →
    ∃ t, step s = .next t ∧ t.pc = 0 ∧ t.statusWord = 0 ∧ t.ctrlWord = 0 ∧ t.entry = 0 ∧ t.errpc = 0 ∧ t.errcmd = 0 ∧
      t.irq = false ∧ t.script = rest ∧
      (∀ i, t.wWritten i = false) ∧ (∀ k, t.sWritten k = false) ∧ (∀ a, t.cmd.read a = none)

/-! ## The host window -/

/-- The read-only registers and their values; STATUS and CTRL read as their layouts say. -/
def Obligations.RegisterReads : Prop :=
  ∀ (s : State) (off : Offset) (rest : List Action), s.script = .read 4 off :: rest →
    let answers (v : Word32) := step s = .next { s with script := rest, rdata := some v }
    (off = 0x0000 → answers 0xB1512381#32) ∧
    (off = 0x0004 → answers 0x00010000#32) ∧
    (off = 0x0008 → answers (BitVec.ofNat 32
      (256 * errNumber s.errcode + 4 * s.accerr.toNat + 2 * s.done.toNat + s.busy.toNat))) ∧
    (off = 0x000C → answers (BitVec.ofNat 32 (4 * s.irqEn.toNat))) ∧
    (off = 0x0010 → s.busy = false → answers (BitVec.ofNat 32 s.entry.toNat)) ∧
    (off = 0x0014 → answers (BitVec.ofNat 32 s.pc.toNat)) ∧
    (off = 0x0018 → answers (BitVec.ofNat 32 s.errpc.toNat)) ∧
    (off = 0x001C → answers s.errcmd)

/-- Writes to STATUS act through DONE and ACCERR alone, writes to the read-only registers are ignored without error,
and ENTRY takes bits 7:0 while idle. -/
def Obligations.RegisterWrites : Prop :=
  ∀ (s : State) (off : Offset) (v : Word32) (rest : List Action), s.script = .write 4 off v :: rest →
    (off = 0x0008 → step s = .next { s with
      script := rest, done := s.done && !v.getLsbD 1, accerr := s.accerr && !v.getLsbD 2 }) ∧
    (off = 0x0010 → s.busy = false → step s = .next { s with script := rest, entry := v.setWidth 8 }) ∧
    (off ∈ [0x0000, 0x0004, 0x0014, 0x0018, 0x001C] → step s = .next { s with script := rest })

/-- While busy the host may not touch W, S, CMD or ENTRY: a read returns 0, a write changes nothing, and either sets
ACCERR; the seven other registers stay readable without that. -/
def Obligations.BusyLockout : Prop :=
  ∀ (s : State) (off : Offset) (rest : List Action), s.busy = true → off.toNat % 4 = 0 →
    ((off.toNat = 0x0010 ∨ (0x1000 ≤ off.toNat ∧ off.toNat ≤ 0x13FF) ∨ (0x4000 ≤ off.toNat ∧ off.toNat ≤ 0x6FFF) ∨
        (0x8000 ≤ off.toNat ∧ off.toNat ≤ 0x81FF)) →
      (s.script = .read 4 off :: rest → step s = .next { s with script := rest, accerr := true, rdata := some 0 }) ∧
      (∀ v, s.script = .write 4 off v :: rest → step s = .next { s with script := rest, accerr := true })) ∧
    ((off.toNat ≤ 0x001C ∧ off.toNat ≠ 0x0010) → s.script = .read 4 off :: rest →
      ∃ v, step s = .next { s with script := rest, rdata := some v })

/-- No step that begins while busy, whatever is scheduled, changes command memory, a scalar register or ENTRY, except
reset; and a set ACCERR stays set until a write of 1 to its bit of STATUS, or reset. -/
def Obligations.StorageLockedWhileBusyAndAccerrSticky : Prop :=
  ∀ s t : State, (∀ rest, s.script ≠ .reset :: rest) → step s = .next t →
    (s.busy = true → t.cmd = s.cmd ∧ t.sc = s.sc ∧ t.entry = s.entry) ∧
    (s.accerr = true → t.accerr = false →
      ∃ v rest, s.script = .write 4 0x0008 v :: rest ∧ v.getLsbD 2 = true)

/-- An access that is not one aligned 32-bit word, or is at a reserved offset, is refused: a read returns 0, a write
changes nothing, and either sets ACCERR. -/
def Obligations.RefusedAccesses : Prop :=
  ∀ (s : State) (bytes : Nat) (off : Offset) (rest : List Action),
    (bytes ≠ 4 ∨ off.toNat % 4 ≠ 0 ∨ (0x0020 ≤ off.toNat ∧ off.toNat ≤ 0x0FFF) ∨
      (0x1400 ≤ off.toNat ∧ off.toNat ≤ 0x3FFF) ∨ (0x7000 ≤ off.toNat ∧ off.toNat ≤ 0x7FFF) ∨ 0x8200 ≤ off.toNat) →
    (s.script = .read bytes off :: rest → step s = .next { s with script := rest, accerr := true, rdata := some 0 }) ∧
    (∀ v, s.script = .write bytes off v :: rest → step s = .next { s with script := rest, accerr := true })

/-- A W word on the bus while idle: bus word j of W[i] is its bits 383−32j to 352−32j; a read returns them, and a write
replaces exactly them and leaves every other bit of W, and everything but W and its marks, unchanged. -/
def Obligations.WordFileOnTheBus : Prop :=
  ∀ (s : State) (i j : Nat) (rest : List Action), s.busy = false → i < 256 → j < 12 →
    let off := BitVec.ofNat 16 (0x4000 + 48 * i + 4 * j)
    (s.script = .read 4 off :: rest →
      ∃ v, step s = .next { s with script := rest, rdata := some v } ∧
        ∀ m, m < 32 → v.getLsbD m = (s.readW i).getLsbD (352 - 32 * j + m)) ∧
    (∀ v, s.script = .write 4 off v :: rest →
      ∃ t, step s = .next t ∧ t = { s with script := rest, w := t.w, wInit := t.wInit } ∧
        (∀ m, m < 384 → (t.readW i).getLsbD m =
          if 352 - 32 * j ≤ m ∧ m ≤ 383 - 32 * j then v.getLsbD (m - (352 - 32 * j)) else (s.readW i).getLsbD m) ∧
        (∀ k, k ≠ i → t.readW k = s.readW k))

/-- A scalar register and a command entry on the bus while idle: bus word j of S[k] is its bits 1023−32j to 992−32j, and
CMD[a] is one bus word.  Reading an entry that has not been written since reset is the fault Uninit: the model's form of
R343 for command memory, notes/assumptions/2.md and 5.md. -/
def Obligations.ScalarsAndCommandsOnTheBus : Prop :=
  (∀ (s : State) (k : SIdx) (j : Nat) (rest : List Action), s.busy = false → j < 32 →
    let off := BitVec.ofNat 16 (0x8000 + 128 * k.toNat + 4 * j)
    (s.script = .read 4 off :: rest →
      ∃ v, step s = .next { s with script := rest, rdata := some v } ∧
        ∀ m, m < 32 → v.getLsbD m = (s.readS k).getLsbD (992 - 32 * j + m)) ∧
    (∀ v, s.script = .write 4 off v :: rest →
      ∃ t, step s = .next t ∧ t = { s with script := rest, sc := t.sc, sInit := t.sInit } ∧
        (∀ m, m < 1024 → (t.readS k).getLsbD m =
          if 992 - 32 * j ≤ m ∧ m ≤ 1023 - 32 * j then v.getLsbD (m - (992 - 32 * j)) else (s.readS k).getLsbD m) ∧
        (∀ l, l ≠ k → t.readS l = s.readS l))) ∧
  (∀ (s : State) (a : Nat) (rest : List Action), s.busy = false → a < 256 →
    let off := BitVec.ofNat 16 (0x1000 + 4 * a)
    (∀ w, s.script = .read 4 off :: rest → s.cmd.read a = some w →
      step s = .next { s with script := rest, rdata := some w }) ∧
    (s.script = .read 4 off :: rest → s.cmd.read a = none → step s = .fault (.uninit (.cmd a))) ∧
    (∀ v, s.script = .write 4 off v :: rest →
      ∃ t, step s = .next t ∧ t = { s with script := rest, cmd := t.cmd } ∧ t.cmd.read a = some v ∧
        ∀ c, c ≠ a → t.cmd.read c = s.cmd.read c))

/-- A read has no side effect but the mark of a refusal. -/
def Obligations.ReadsHaveNoOtherSideEffect : Prop :=
  ∀ (s t : State) (bytes : Nat) (off : Offset) (rest : List Action), s.script = .read bytes off :: rest →
    step s = .next t →
    t = { s with script := rest, rdata := t.rdata, accerr := t.accerr } ∧
    (t.accerr = s.accerr ∨ (t.accerr = true ∧ t.rdata = some 0))

/-! ## Invariants of the machine -/

/-- Every step keeps STATUS legal and the command memory canonical (the canonical form is the model's,
notes/assumptions/5.md). -/
def Obligations.EveryStepKeepsTheInvariant : Prop :=
  ∀ s t : State, Inv s → step s = .next t → Inv t

/-- The invariant holds after reset: STATUS is legal, with BUSY = 0 (R51), and the command memory is canonical, since it
lists nothing; that form, and that R51's unspecified contents are no contents, are the model's choice,
notes/assumptions/5.md. -/
def Obligations.ResetMeetsTheInvariant : Prop := Inv State.reset

/-- R343 as non-interference: two states that agree on everything written since reset answer alike under the step that
faults on an unwritten read, and go on agreeing, so no claim about `checkedStep` rests on what a register held before it
was written (`checkedStep` and the marks are the model's form of R343, notes/assumptions/2.md). -/
def Obligations.UnwrittenContentsDoNotMatter : Prop :=
  ∀ s t : State, AgreeOnWritten s t →
    match checkedStep s, checkedStep t with
    | .next s', .next t' => AgreeOnWritten s' t'
    | .fault f, .fault g => f = g
    | _, _ => False

/-- Where the step of R343 answers a next state, the machine's step answers the same; where it faults, the machine's step
faults alike, or it would read a W word or a scalar register that has not been written since reset, and that is the one
named.  Where everything it would read has been written the two are the same step; and where it would read something that
has not, the step of R343 faults (`checkedStep` is the model's form of R343, notes/assumptions/2.md and 10.md). -/
def Obligations.CheckedStepRefinesStep : Prop :=
  ∀ s : State,
    (∀ t, checkedStep s = .next t → step s = .next t) ∧
    (∀ l, checkedStep s = .fault (.uninit l) →
      step s = .fault (.uninit l) ∨ (WouldRead s l ∧ ¬Written s l)) ∧
    ((∀ l, WouldRead s l → Written s l) → checkedStep s = step s) ∧
    (∀ l, WouldRead s l → ¬Written s l →
      ∃ m, checkedStep s = .fault (.uninit m) ∧ WouldRead s m ∧ ¬Written s m)
end

