-- ==== Sys2Proof/Laws/State.lean ====
section
/-! SUPPORT. One lemma per field per update of State, true by rfl, so that no proof unfolds a record update. -/

namespace Sys2Proof.Machine

open Sys2Proof

/-! ## State.writeW -/

@[simp] theorem State.writeW_sc (s : State) (i : Nat) (v : Word) : (s.writeW i v).sc = s.sc := rfl
@[simp] theorem State.writeW_cmd (s : State) (i : Nat) (v : Word) : (s.writeW i v).cmd = s.cmd := rfl
@[simp] theorem State.writeW_pc (s : State) (i : Nat) (v : Word) : (s.writeW i v).pc = s.pc := rfl
@[simp] theorem State.writeW_busy (s : State) (i : Nat) (v : Word) : (s.writeW i v).busy = s.busy := rfl
@[simp] theorem State.writeW_done (s : State) (i : Nat) (v : Word) : (s.writeW i v).done = s.done := rfl
@[simp] theorem State.writeW_accerr (s : State) (i : Nat) (v : Word) : (s.writeW i v).accerr = s.accerr := rfl
@[simp] theorem State.writeW_errcode (s : State) (i : Nat) (v : Word) : (s.writeW i v).errcode = s.errcode := rfl
@[simp] theorem State.writeW_irqEn (s : State) (i : Nat) (v : Word) : (s.writeW i v).irqEn = s.irqEn := rfl
@[simp] theorem State.writeW_entry (s : State) (i : Nat) (v : Word) : (s.writeW i v).entry = s.entry := rfl
@[simp] theorem State.writeW_errpc (s : State) (i : Nat) (v : Word) : (s.writeW i v).errpc = s.errpc := rfl
@[simp] theorem State.writeW_errcmd (s : State) (i : Nat) (v : Word) : (s.writeW i v).errcmd = s.errcmd := rfl
@[simp] theorem State.writeW_sInit (s : State) (i : Nat) (v : Word) : (s.writeW i v).sInit = s.sInit := rfl
@[simp] theorem State.writeW_script (s : State) (i : Nat) (v : Word) : (s.writeW i v).script = s.script := rfl
@[simp] theorem State.writeW_rdata (s : State) (i : Nat) (v : Word) : (s.writeW i v).rdata = s.rdata := rfl

/-! ## State.pokeW -/

@[simp] theorem State.pokeW_sc (s : State) (i j : Nat) (v : Word32) : (s.pokeW i j v).sc = s.sc := rfl
@[simp] theorem State.pokeW_cmd (s : State) (i j : Nat) (v : Word32) : (s.pokeW i j v).cmd = s.cmd := rfl
@[simp] theorem State.pokeW_pc (s : State) (i j : Nat) (v : Word32) : (s.pokeW i j v).pc = s.pc := rfl
@[simp] theorem State.pokeW_busy (s : State) (i j : Nat) (v : Word32) : (s.pokeW i j v).busy = s.busy := rfl
@[simp] theorem State.pokeW_done (s : State) (i j : Nat) (v : Word32) : (s.pokeW i j v).done = s.done := rfl
@[simp] theorem State.pokeW_accerr (s : State) (i j : Nat) (v : Word32) : (s.pokeW i j v).accerr = s.accerr := rfl
@[simp] theorem State.pokeW_errcode (s : State) (i j : Nat) (v : Word32) : (s.pokeW i j v).errcode = s.errcode := rfl
@[simp] theorem State.pokeW_irqEn (s : State) (i j : Nat) (v : Word32) : (s.pokeW i j v).irqEn = s.irqEn := rfl
@[simp] theorem State.pokeW_entry (s : State) (i j : Nat) (v : Word32) : (s.pokeW i j v).entry = s.entry := rfl
@[simp] theorem State.pokeW_errpc (s : State) (i j : Nat) (v : Word32) : (s.pokeW i j v).errpc = s.errpc := rfl
@[simp] theorem State.pokeW_errcmd (s : State) (i j : Nat) (v : Word32) : (s.pokeW i j v).errcmd = s.errcmd := rfl
@[simp] theorem State.pokeW_sInit (s : State) (i j : Nat) (v : Word32) : (s.pokeW i j v).sInit = s.sInit := rfl
@[simp] theorem State.pokeW_script (s : State) (i j : Nat) (v : Word32) : (s.pokeW i j v).script = s.script := rfl
@[simp] theorem State.pokeW_rdata (s : State) (i j : Nat) (v : Word32) : (s.pokeW i j v).rdata = s.rdata := rfl

/-! ## State.pokeS -/

@[simp] theorem State.pokeS_w (s : State) (k j : Nat) (v : Word32) : (s.pokeS k j v).w = s.w := rfl
@[simp] theorem State.pokeS_cmd (s : State) (k j : Nat) (v : Word32) : (s.pokeS k j v).cmd = s.cmd := rfl
@[simp] theorem State.pokeS_pc (s : State) (k j : Nat) (v : Word32) : (s.pokeS k j v).pc = s.pc := rfl
@[simp] theorem State.pokeS_busy (s : State) (k j : Nat) (v : Word32) : (s.pokeS k j v).busy = s.busy := rfl
@[simp] theorem State.pokeS_done (s : State) (k j : Nat) (v : Word32) : (s.pokeS k j v).done = s.done := rfl
@[simp] theorem State.pokeS_accerr (s : State) (k j : Nat) (v : Word32) : (s.pokeS k j v).accerr = s.accerr := rfl
@[simp] theorem State.pokeS_errcode (s : State) (k j : Nat) (v : Word32) : (s.pokeS k j v).errcode = s.errcode := rfl
@[simp] theorem State.pokeS_irqEn (s : State) (k j : Nat) (v : Word32) : (s.pokeS k j v).irqEn = s.irqEn := rfl
@[simp] theorem State.pokeS_entry (s : State) (k j : Nat) (v : Word32) : (s.pokeS k j v).entry = s.entry := rfl
@[simp] theorem State.pokeS_errpc (s : State) (k j : Nat) (v : Word32) : (s.pokeS k j v).errpc = s.errpc := rfl
@[simp] theorem State.pokeS_errcmd (s : State) (k j : Nat) (v : Word32) : (s.pokeS k j v).errcmd = s.errcmd := rfl
@[simp] theorem State.pokeS_wInit (s : State) (k j : Nat) (v : Word32) : (s.pokeS k j v).wInit = s.wInit := rfl
@[simp] theorem State.pokeS_script (s : State) (k j : Nat) (v : Word32) : (s.pokeS k j v).script = s.script := rfl
@[simp] theorem State.pokeS_rdata (s : State) (k j : Nat) (v : Word32) : (s.pokeS k j v).rdata = s.rdata := rfl

/-! ## endError -/

@[simp] theorem endError_w (e : ErrCode) (a : CmdAddr) (c : Word32) (s : State) : (endError e a c s).w = s.w := rfl
@[simp] theorem endError_sc (e : ErrCode) (a : CmdAddr) (c : Word32) (s : State) : (endError e a c s).sc = s.sc := rfl
@[simp] theorem endError_cmd (e : ErrCode) (a : CmdAddr) (c : Word32) (s : State) : (endError e a c s).cmd = s.cmd := rfl
@[simp] theorem endError_pc (e : ErrCode) (a : CmdAddr) (c : Word32) (s : State) : (endError e a c s).pc = a := rfl
@[simp] theorem endError_busy (e : ErrCode) (a : CmdAddr) (c : Word32) (s : State) : (endError e a c s).busy = false := rfl
@[simp] theorem endError_done (e : ErrCode) (a : CmdAddr) (c : Word32) (s : State) : (endError e a c s).done = true := rfl
@[simp] theorem endError_accerr (e : ErrCode) (a : CmdAddr) (c : Word32) (s : State) : (endError e a c s).accerr = s.accerr := rfl
@[simp] theorem endError_errcode (e : ErrCode) (a : CmdAddr) (c : Word32) (s : State) : (endError e a c s).errcode = e := rfl
@[simp] theorem endError_irqEn (e : ErrCode) (a : CmdAddr) (c : Word32) (s : State) : (endError e a c s).irqEn = s.irqEn := rfl
@[simp] theorem endError_entry (e : ErrCode) (a : CmdAddr) (c : Word32) (s : State) : (endError e a c s).entry = s.entry := rfl
@[simp] theorem endError_errpc (e : ErrCode) (a : CmdAddr) (c : Word32) (s : State) : (endError e a c s).errpc = a := rfl
@[simp] theorem endError_errcmd (e : ErrCode) (a : CmdAddr) (c : Word32) (s : State) : (endError e a c s).errcmd = c := rfl
@[simp] theorem endError_wInit (e : ErrCode) (a : CmdAddr) (c : Word32) (s : State) : (endError e a c s).wInit = s.wInit := rfl
@[simp] theorem endError_sInit (e : ErrCode) (a : CmdAddr) (c : Word32) (s : State) : (endError e a c s).sInit = s.sInit := rfl
@[simp] theorem endError_script (e : ErrCode) (a : CmdAddr) (c : Word32) (s : State) : (endError e a c s).script = s.script := rfl
@[simp] theorem endError_rdata (e : ErrCode) (a : CmdAddr) (c : Word32) (s : State) : (endError e a c s).rdata = s.rdata := rfl

/-! ## endHalt -/

@[simp] theorem endHalt_w (s : State) : (endHalt s).w = s.w := rfl
@[simp] theorem endHalt_sc (s : State) : (endHalt s).sc = s.sc := rfl
@[simp] theorem endHalt_cmd (s : State) : (endHalt s).cmd = s.cmd := rfl
@[simp] theorem endHalt_pc (s : State) : (endHalt s).pc = s.pc := rfl
@[simp] theorem endHalt_busy (s : State) : (endHalt s).busy = false := rfl
@[simp] theorem endHalt_done (s : State) : (endHalt s).done = true := rfl
@[simp] theorem endHalt_accerr (s : State) : (endHalt s).accerr = s.accerr := rfl
@[simp] theorem endHalt_errcode (s : State) : (endHalt s).errcode = s.errcode := rfl
@[simp] theorem endHalt_irqEn (s : State) : (endHalt s).irqEn = s.irqEn := rfl
@[simp] theorem endHalt_entry (s : State) : (endHalt s).entry = s.entry := rfl
@[simp] theorem endHalt_errpc (s : State) : (endHalt s).errpc = s.errpc := rfl
@[simp] theorem endHalt_errcmd (s : State) : (endHalt s).errcmd = s.errcmd := rfl
@[simp] theorem endHalt_wInit (s : State) : (endHalt s).wInit = s.wInit := rfl
@[simp] theorem endHalt_sInit (s : State) : (endHalt s).sInit = s.sInit := rfl
@[simp] theorem endHalt_script (s : State) : (endHalt s).script = s.script := rfl
@[simp] theorem endHalt_rdata (s : State) : (endHalt s).rdata = s.rdata := rfl

/-! ## startRun -/

@[simp] theorem startRun_w (s : State) : (startRun s).w = s.w := rfl
@[simp] theorem startRun_sc (s : State) : (startRun s).sc = s.sc := rfl
@[simp] theorem startRun_cmd (s : State) : (startRun s).cmd = s.cmd := rfl
@[simp] theorem startRun_pc (s : State) : (startRun s).pc = s.entry := rfl
@[simp] theorem startRun_busy (s : State) : (startRun s).busy = true := rfl
@[simp] theorem startRun_done (s : State) : (startRun s).done = false := rfl
@[simp] theorem startRun_accerr (s : State) : (startRun s).accerr = s.accerr := rfl
@[simp] theorem startRun_errcode (s : State) : (startRun s).errcode = .none := rfl
@[simp] theorem startRun_irqEn (s : State) : (startRun s).irqEn = s.irqEn := rfl
@[simp] theorem startRun_entry (s : State) : (startRun s).entry = s.entry := rfl
@[simp] theorem startRun_errpc (s : State) : (startRun s).errpc = s.errpc := rfl
@[simp] theorem startRun_errcmd (s : State) : (startRun s).errcmd = s.errcmd := rfl
@[simp] theorem startRun_wInit (s : State) : (startRun s).wInit = s.wInit := rfl
@[simp] theorem startRun_sInit (s : State) : (startRun s).sInit = s.sInit := rfl
@[simp] theorem startRun_script (s : State) : (startRun s).script = s.script := rfl
@[simp] theorem startRun_rdata (s : State) : (startRun s).rdata = s.rdata := rfl

/-! ## refuseAccess -/

@[simp] theorem refuseAccess_w (s : State) : (refuseAccess s).w = s.w := rfl
@[simp] theorem refuseAccess_sc (s : State) : (refuseAccess s).sc = s.sc := rfl
@[simp] theorem refuseAccess_cmd (s : State) : (refuseAccess s).cmd = s.cmd := rfl
@[simp] theorem refuseAccess_pc (s : State) : (refuseAccess s).pc = s.pc := rfl
@[simp] theorem refuseAccess_busy (s : State) : (refuseAccess s).busy = s.busy := rfl
@[simp] theorem refuseAccess_done (s : State) : (refuseAccess s).done = s.done := rfl
@[simp] theorem refuseAccess_accerr (s : State) : (refuseAccess s).accerr = true := rfl
@[simp] theorem refuseAccess_errcode (s : State) : (refuseAccess s).errcode = s.errcode := rfl
@[simp] theorem refuseAccess_irqEn (s : State) : (refuseAccess s).irqEn = s.irqEn := rfl
@[simp] theorem refuseAccess_entry (s : State) : (refuseAccess s).entry = s.entry := rfl
@[simp] theorem refuseAccess_errpc (s : State) : (refuseAccess s).errpc = s.errpc := rfl
@[simp] theorem refuseAccess_errcmd (s : State) : (refuseAccess s).errcmd = s.errcmd := rfl
@[simp] theorem refuseAccess_wInit (s : State) : (refuseAccess s).wInit = s.wInit := rfl
@[simp] theorem refuseAccess_sInit (s : State) : (refuseAccess s).sInit = s.sInit := rfl
@[simp] theorem refuseAccess_script (s : State) : (refuseAccess s).script = s.script := rfl
@[simp] theorem refuseAccess_rdata (s : State) : (refuseAccess s).rdata = s.rdata := rfl

/-! ## writeStatus -/

@[simp] theorem writeStatus_w (v : Word32) (s : State) : (writeStatus v s).w = s.w := rfl
@[simp] theorem writeStatus_sc (v : Word32) (s : State) : (writeStatus v s).sc = s.sc := rfl
@[simp] theorem writeStatus_cmd (v : Word32) (s : State) : (writeStatus v s).cmd = s.cmd := rfl
@[simp] theorem writeStatus_pc (v : Word32) (s : State) : (writeStatus v s).pc = s.pc := rfl
@[simp] theorem writeStatus_busy (v : Word32) (s : State) : (writeStatus v s).busy = s.busy := rfl
@[simp] theorem writeStatus_done (v : Word32) (s : State) : (writeStatus v s).done = (s.done && !v.getLsbD 1) := rfl
@[simp] theorem writeStatus_accerr (v : Word32) (s : State) : (writeStatus v s).accerr = (s.accerr && !v.getLsbD 2) := rfl
@[simp] theorem writeStatus_errcode (v : Word32) (s : State) : (writeStatus v s).errcode = s.errcode := rfl
@[simp] theorem writeStatus_irqEn (v : Word32) (s : State) : (writeStatus v s).irqEn = s.irqEn := rfl
@[simp] theorem writeStatus_entry (v : Word32) (s : State) : (writeStatus v s).entry = s.entry := rfl
@[simp] theorem writeStatus_errpc (v : Word32) (s : State) : (writeStatus v s).errpc = s.errpc := rfl
@[simp] theorem writeStatus_errcmd (v : Word32) (s : State) : (writeStatus v s).errcmd = s.errcmd := rfl
@[simp] theorem writeStatus_wInit (v : Word32) (s : State) : (writeStatus v s).wInit = s.wInit := rfl
@[simp] theorem writeStatus_sInit (v : Word32) (s : State) : (writeStatus v s).sInit = s.sInit := rfl
@[simp] theorem writeStatus_script (v : Word32) (s : State) : (writeStatus v s).script = s.script := rfl
@[simp] theorem writeStatus_rdata (v : Word32) (s : State) : (writeStatus v s).rdata = s.rdata := rfl

/-! ## State.writeWords -/

@[simp] theorem State.writeWords_sc (s : State) (b : Nat) (ws : List Word) : (s.writeWords b ws).sc = s.sc := by
  induction ws generalizing s b with
  | nil => rfl
  | cons v vs ih => exact ih _ _

@[simp] theorem State.writeWords_cmd (s : State) (b : Nat) (ws : List Word) : (s.writeWords b ws).cmd = s.cmd := by
  induction ws generalizing s b with
  | nil => rfl
  | cons v vs ih => exact ih _ _

@[simp] theorem State.writeWords_pc (s : State) (b : Nat) (ws : List Word) : (s.writeWords b ws).pc = s.pc := by
  induction ws generalizing s b with
  | nil => rfl
  | cons v vs ih => exact ih _ _

@[simp] theorem State.writeWords_busy (s : State) (b : Nat) (ws : List Word) : (s.writeWords b ws).busy = s.busy := by
  induction ws generalizing s b with
  | nil => rfl
  | cons v vs ih => exact ih _ _

@[simp] theorem State.writeWords_done (s : State) (b : Nat) (ws : List Word) : (s.writeWords b ws).done = s.done := by
  induction ws generalizing s b with
  | nil => rfl
  | cons v vs ih => exact ih _ _

@[simp] theorem State.writeWords_accerr (s : State) (b : Nat) (ws : List Word) : (s.writeWords b ws).accerr = s.accerr := by
  induction ws generalizing s b with
  | nil => rfl
  | cons v vs ih => exact ih _ _

@[simp] theorem State.writeWords_errcode (s : State) (b : Nat) (ws : List Word) : (s.writeWords b ws).errcode = s.errcode := by
  induction ws generalizing s b with
  | nil => rfl
  | cons v vs ih => exact ih _ _

@[simp] theorem State.writeWords_irqEn (s : State) (b : Nat) (ws : List Word) : (s.writeWords b ws).irqEn = s.irqEn := by
  induction ws generalizing s b with
  | nil => rfl
  | cons v vs ih => exact ih _ _

@[simp] theorem State.writeWords_entry (s : State) (b : Nat) (ws : List Word) : (s.writeWords b ws).entry = s.entry := by
  induction ws generalizing s b with
  | nil => rfl
  | cons v vs ih => exact ih _ _

@[simp] theorem State.writeWords_errpc (s : State) (b : Nat) (ws : List Word) : (s.writeWords b ws).errpc = s.errpc := by
  induction ws generalizing s b with
  | nil => rfl
  | cons v vs ih => exact ih _ _

@[simp] theorem State.writeWords_errcmd (s : State) (b : Nat) (ws : List Word) : (s.writeWords b ws).errcmd = s.errcmd := by
  induction ws generalizing s b with
  | nil => rfl
  | cons v vs ih => exact ih _ _

@[simp] theorem State.writeWords_sInit (s : State) (b : Nat) (ws : List Word) : (s.writeWords b ws).sInit = s.sInit := by
  induction ws generalizing s b with
  | nil => rfl
  | cons v vs ih => exact ih _ _

@[simp] theorem State.writeWords_script (s : State) (b : Nat) (ws : List Word) : (s.writeWords b ws).script = s.script := by
  induction ws generalizing s b with
  | nil => rfl
  | cons v vs ih => exact ih _ _

@[simp] theorem State.writeWords_rdata (s : State) (b : Nat) (ws : List Word) : (s.writeWords b ws).rdata = s.rdata := by
  induction ws generalizing s b with
  | nil => rfl
  | cons v vs ih => exact ih _ _

/-! ## The accessors see only their own array -/

@[simp] theorem readW_endError (e : ErrCode) (a : CmdAddr) (c : Word32) (s : State) (i : Nat) :
    (endError e a c s).readW i = s.readW i := rfl
@[simp] theorem readW_endHalt (s : State) (i : Nat) : (endHalt s).readW i = s.readW i := rfl
@[simp] theorem readW_setPc (s : State) (a : CmdAddr) (i : Nat) : ({ s with pc := a } : State).readW i = s.readW i := rfl
@[simp] theorem readW_setScript (s : State) (l : List Action) (i : Nat) :
    ({ s with script := l } : State).readW i = s.readW i := rfl
@[simp] theorem wWritten_setPc (s : State) (a : CmdAddr) (i : Nat) :
    ({ s with pc := a } : State).wWritten i = s.wWritten i := rfl
@[simp] theorem readS_endError (e : ErrCode) (a : CmdAddr) (c : Word32) (s : State) (k : SIdx) :
    (endError e a c s).readS k = s.readS k := rfl
@[simp] theorem readS_writeWords (s : State) (b : Nat) (ws : List Word) (k : SIdx) :
    (s.writeWords b ws).readS k = s.readS k := by simp [State.readS]

/-! ## Reset (R51) -/

@[simp] theorem reset_pc : State.reset.pc = 0 := rfl
@[simp] theorem reset_busy : State.reset.busy = false := rfl
@[simp] theorem reset_done : State.reset.done = false := rfl
@[simp] theorem reset_accerr : State.reset.accerr = false := rfl
@[simp] theorem reset_errcode : State.reset.errcode = .none := rfl
@[simp] theorem reset_irqEn : State.reset.irqEn = false := rfl
@[simp] theorem reset_entry : State.reset.entry = 0 := rfl
@[simp] theorem reset_errpc : State.reset.errpc = 0 := rfl
@[simp] theorem reset_errcmd : State.reset.errcmd = 0 := rfl
@[simp] theorem reset_cmd : State.reset.cmd = [] := rfl
@[simp] theorem reset_script : State.reset.script = [] := rfl

end Sys2Proof.Machine
end

