-- ==== Sys2Proof/Laws/Storage.lean ====
section
/-! SUPPORT. Read after write in W and in the command memory, and the canonical form of the command memory. -/

namespace Sys2Proof.Laws

open Sys2Proof Sys2Proof.Machine

/-! ## W -/

theorem readW_writeW_self (s : State) {i : Nat} (v : Word) (h : i < 256) : (s.writeW i v).readW i = v := by
  simp [State.readW, State.writeW, h]

theorem readW_writeW_other (s : State) {i j : Nat} (v : Word) (h : j ≠ i) : (s.writeW i v).readW j = s.readW j := by
  simp [State.readW, State.writeW, h.symm]

theorem wInit_writeW_other (s : State) {i j : Nat} (v : Word) (h : j ≠ i) :
    (s.writeW i v).wInit[j]? = s.wInit[j]? := by
  simp [State.writeW, h.symm]

theorem wWritten_writeW_self (s : State) {i : Nat} (v : Word) (h : i < 256) : (s.writeW i v).wWritten i = true := by
  simp [State.wWritten, State.writeW, h]

/-- Outside its destination a result leaves W as it was. -/
theorem readW_writeWords_outside (s : State) (b i : Nat) (ws : List Word) (h : i < b ∨ b + ws.length ≤ i) :
    (s.writeWords b ws).readW i = s.readW i ∧ (s.writeWords b ws).wInit[i]? = s.wInit[i]? := by
  induction ws generalizing s b with
  | nil => exact ⟨rfl, rfl⟩
  | cons v vs ih =>
    have hi : i ≠ b := by simp only [List.length_cons] at h; omega
    have hrest : i < b + 1 ∨ b + 1 + vs.length ≤ i := by simp only [List.length_cons] at h; omega
    obtain ⟨h1, h2⟩ := ih (s.writeW b v) (b + 1) hrest
    exact ⟨h1.trans (readW_writeW_other s v hi), h2.trans (wInit_writeW_other s v hi)⟩

/-- Word j of a result that fits stands at W[b + j] and counts as written. -/
theorem readW_writeWords_inside (s : State) (b j : Nat) (ws : List Word) (hj : j < ws.length)
    (hfit : b + ws.length ≤ 256) :
    (s.writeWords b ws).readW (b + j) = ws[j] ∧ (s.writeWords b ws).wWritten (b + j) = true := by
  induction ws generalizing s b j with
  | nil => simp at hj
  | cons v vs ih =>
    simp only [List.length_cons] at hj hfit
    cases j with
    | zero =>
      have hout := readW_writeWords_outside (s.writeW b v) (b + 1) b vs (Or.inl (Nat.lt_succ_self b))
      have hb : b < 256 := by omega
      refine ⟨hout.1.trans (readW_writeW_self s v hb), ?_⟩
      have := wWritten_writeW_self s v hb
      unfold State.wWritten at this ⊢
      rwa [Nat.add_zero, State.writeWords, hout.2]
    | succ j =>
      have := ih (s.writeW b v) (b + 1) j (by omega) (by omega)
      rw [Nat.add_right_comm b 1 j] at this
      simpa [State.writeWords, Nat.add_assoc] using this

/-- The result of a command is exactly what `WritesWords` says, when it fits. -/
theorem writeWords_writesWords (s : State) (b : Nat) (ws : List Word) (hfit : b + ws.length ≤ 256) :
    (∀ j (h : j < ws.length),
      (s.writeWords b ws).readW (b + j) = ws[j] ∧ (s.writeWords b ws).wWritten (b + j) = true) ∧
    (∀ i, i < b ∨ b + ws.length ≤ i →
      (s.writeWords b ws).readW i = s.readW i ∧ (s.writeWords b ws).wInit[i]? = s.wInit[i]?) :=
  ⟨fun j h => readW_writeWords_inside s b j ws h hfit, fun i h => readW_writeWords_outside s b i ws h⟩

/-- A result touches W and its marks alone. -/
theorem writeWords_frame (s : State) (b : Nat) (ws : List Word) :
    s.writeWords b ws = { s with w := (s.writeWords b ws).w, wInit := (s.writeWords b ws).wInit } := by
  induction ws generalizing s b with
  | nil => rfl
  | cons v vs ih => exact ih (s.writeW b v) (b + 1)

/-! ## The command memory -/

theorem memory_read_write_self (m : Memory) (a : Nat) (v : Word32) : (m.write a v).read a = some v := by
  induction m with
  | nil => simp [Memory.write, Memory.read]
  | cons c t ih =>
    obtain ⟨b, u⟩ := c
    unfold Memory.write
    split
    · simp [Memory.read]
    · split
      · simp [Memory.read]
      · next h => simp [Memory.read, Ne.symm h, ih]

theorem memory_read_write_other (m : Memory) {a c : Nat} (v : Word32) (h : c ≠ a) : (m.write a v).read c = m.read c := by
  induction m with
  | nil => simp [Memory.write, Memory.read, h.symm]
  | cons x t ih =>
    obtain ⟨b, u⟩ := x
    unfold Memory.write
    split
    · simp [Memory.read, h.symm]
    · split
      · next hab => subst hab; simp [Memory.read, h.symm]
      · simp [Memory.read, ih]

theorem memory_wfFrom_write (m : Memory) (lo a : Nat) (v : Word32) (hm : m.wfFrom lo = true) (hlo : lo ≤ a)
    (ha : a < 256) : (m.write a v).wfFrom lo = true := by
  induction m generalizing lo with
  | nil => simp [Memory.write, Memory.wfFrom, hlo, ha]
  | cons x t ih =>
    obtain ⟨b, u⟩ := x
    simp only [Memory.wfFrom, Bool.and_eq_true, decide_eq_true_eq] at hm
    unfold Memory.write
    split
    · next h => simp [Memory.wfFrom, hm, hlo, ha, Nat.succ_le_of_lt h]
    · split
      · next h => subst h; simp [Memory.wfFrom, hm]
      · next h1 h2 => simp [Memory.wfFrom, hm, ih (b + 1) hm.2 (by omega)]

/-- A write keeps the canonical form. -/
theorem memory_wf_write (m : Memory) (a : Nat) (v : Word32) (hm : m.wf = true) (ha : a < 256) :
    (m.write a v).wf = true := memory_wfFrom_write m 0 a v hm (Nat.zero_le a) ha

theorem memory_read_lt (m : Memory) (lo a : Nat) (v : Word32) (hm : m.wfFrom lo = true) (h : m.read a = some v) :
    lo ≤ a ∧ a < 256 := by
  induction m generalizing lo with
  | nil => simp [Memory.read] at h
  | cons x t ih =>
    obtain ⟨b, u⟩ := x
    simp only [Memory.wfFrom, Bool.and_eq_true, decide_eq_true_eq] at hm
    unfold Memory.read at h
    split at h
    · next hb => subst hb; exact hm.1
    · have := ih (b + 1) hm.2 h; omega

/-- In canonical form, two memories that read alike are the same list. -/
theorem memory_ext (m n : Memory) (lo : Nat) (hm : m.wfFrom lo = true) (hn : n.wfFrom lo = true)
    (h : ∀ a, m.read a = n.read a) : m = n := by
  induction m generalizing n lo with
  | nil =>
    cases n with
    | nil => rfl
    | cons y t => obtain ⟨b, u⟩ := y; simpa [Memory.read] using h b
  | cons x t ih =>
    obtain ⟨a, v⟩ := x
    cases n with
    | nil => simpa [Memory.read] using h a
    | cons y t' =>
      obtain ⟨b, u⟩ := y
      have hm' := hm
      have hn' := hn
      simp only [Memory.wfFrom, Bool.and_eq_true, decide_eq_true_eq] at hm hn
      have hab : a = b := by
        by_contra hne
        rcases Nat.lt_or_gt_of_ne hne with hlt | hgt
        · have := h a
          simp only [Memory.read, if_neg (Ne.symm hne), if_true] at this
          have := memory_read_lt t' (b + 1) a v hn.2 this.symm
          omega
        · have := h b
          simp only [Memory.read, if_neg hne, if_true] at this
          have := memory_read_lt t (a + 1) b u hm.2 this
          omega
      subst hab
      have hv : v = u := by simpa [Memory.read] using h a
      subst hv
      congr 1
      refine ih t' (a + 1) hm.2 hn.2 fun c => ?_
      by_cases hc : a = c
      · subst hc
        have notIn (l : Memory) (hl : l.wfFrom (a + 1) = true) : l.read a = none := by
          cases hr : l.read a with
          | none => rfl
          | some w => have := memory_read_lt l (a + 1) a w hl hr; omega
        rw [notIn t hm.2, notIn t' hn.2]
      · simpa [Memory.read, hc] using h c

end Sys2Proof.Laws
end

