-- ==== Sys2Proof/Laws/Bus.lean ====
section
/-! SUPPORT. Bus words of the wide registers (spec/20_memory.md R73, R74) and what a bus transaction can do. -/

namespace Sys2Proof.Laws

open Sys2Proof Sys2Proof.Machine

theorem getLsbD_getLane {n : Nat} (x : BitVec n) (j m : Nat) :
    (getLane x j).getLsbD m = (decide (m < 32) && x.getLsbD (laneLow n j + m)) := by simp [getLane]

/-- The bits of a register after a bus write: the 32 bits of the bus word are replaced and no other. -/
theorem getLsbD_setLane {n : Nat} (x : BitVec n) (j : Nat) (v : Word32) (m : Nat) (hm : m < n) :
    (setLane x j v).getLsbD m =
      if laneLow n j ≤ m ∧ m < laneLow n j + 32 then v.getLsbD (m - laneLow n j) else x.getLsbD m := by
  have hones : ∀ k, (0xFFFFFFFF#32).getLsbD k = decide (k < 32) := fun k => by
    rw [show (0xFFFFFFFF#32) = BitVec.allOnes 32 by decide, BitVec.getLsbD_allOnes]
  simp only [setLane, BitVec.getLsbD_or, BitVec.getLsbD_and, BitVec.getLsbD_not, BitVec.getLsbD_shiftLeft,
    BitVec.getLsbD_setWidth, hones]
  by_cases h1 : laneLow n j ≤ m
  · by_cases h2 : m < laneLow n j + 32
    · have h3 : m - laneLow n j < 32 := by omega
      have h4 : m - laneLow n j < n := by omega
      simp [hm, h1, h2, h3, h4, Nat.not_lt.2 h1]
    · have h3 : ¬ m - laneLow n j < 32 := by omega
      have h5 : v.getLsbD (m - laneLow n j) = false := BitVec.getLsbD_of_ge _ _ (by omega)
      simp [hm, h1, h2, h3, h5]
  · have h2 : m < laneLow n j := by omega
    simp [hm, h1, h2]

theorem getLane_setLane_self {n : Nat} (x : BitVec n) (j : Nat) (v : Word32) (h : 32 * j + 32 ≤ n) :
    getLane (setLane x j v) j = v := by
  apply BitVec.eq_of_getLsbD_eq
  intro m hm
  rw [getLsbD_getLane, getLsbD_setLane _ _ _ _ (by unfold laneLow; omega)]
  simp [hm]

theorem getLane_setLane_other {n : Nat} (x : BitVec n) (j k : Nat) (v : Word32) (h : j ≠ k) (hj : 32 * j + 32 ≤ n)
    (hk : 32 * k + 32 ≤ n) : getLane (setLane x j v) k = getLane x k := by
  apply BitVec.eq_of_getLsbD_eq
  intro m hm
  rw [getLsbD_getLane, getLsbD_getLane, getLsbD_setLane _ _ _ _ (by unfold laneLow; omega)]
  have : ¬(laneLow n j ≤ laneLow n k + m ∧ laneLow n k + m < laneLow n j + 32) := by unfold laneLow; omega
  simp [this]

/-- The ranges of the layout (R71). -/
theorem locate_cmd_lt {off : Offset} {a : Nat} (h : locate off = .cmd a) : a < 256 := by
  unfold locate at h
  dsimp only at h
  split_ifs at h
  · split at h <;> cases h
  · cases h; omega

theorem locate_w_lt {off : Offset} {i j : Nat} (h : locate off = .w i j) : i < 256 ∧ j < 12 := by
  unfold locate at h
  dsimp only at h
  split_ifs at h
  · split at h <;> cases h
  · cases h; omega

theorem locate_s_lt {off : Offset} {k j : Nat} (h : locate off = .s k j) : k < 4 ∧ j < 32 := by
  unfold locate at h
  dsimp only at h
  split_ifs at h
  · split at h <;> cases h
  · cases h; omega

/-- All a read can change is ACCERR (R79). -/
theorem busRead_state {bytes : Nat} {off : Offset} {s t : State} {v : Word32} (h : busRead bytes off s = .ok (v, t)) :
    t = s ∨ (t = refuseAccess s ∧ v = 0) := by
  unfold busRead at h
  dsimp only at h
  repeat' split at h
  all_goals first | (cases h; exact Or.inl rfl) | (cases h; exact Or.inr ⟨rfl, rfl⟩) | cases h

/-- Recording an abort (R307). -/
theorem abortRun_ok {s t : State} (h : abortRun s = .ok t) :
    ∃ w, s.fetch = some w ∧ t = endError .aborted s.pc w s := by
  unfold abortRun at h
  split at h
  · next w hw => cases h; exact ⟨w, hw, rfl⟩
  · cases h

end Sys2Proof.Laws
end

