-- ==== Sys2Proof/Laws/Prime.lean ====
section
/-! SUPPORT. The modulus p of spec/00_scope.md R9 is prime, by Lucas certificates (every factorisation below is checked by
the kernel). -/

namespace Sys2Proof.Laws

open Sys2Proof

/-- Right-to-left modular exponentiation: `acc · b^e mod n`, with `fuel` bits of e left. -/
def powMod (n : Nat) : Nat → Nat → Nat → Nat → Nat
  | 0, _, _, acc => acc
  | fuel + 1, b, e, acc =>
    if e = 0 then acc
    else powMod n fuel (b * b % n) (e / 2) (if e % 2 = 1 then acc * b % n else acc)

theorem powMod_eq (n fuel b e acc : Nat) (he : e < 2 ^ fuel) :
    powMod n fuel b e acc % n = acc * b ^ e % n := by
  induction fuel generalizing b e acc with
  | zero => simp at he; subst he; simp [powMod]
  | succ fuel ih =>
    unfold powMod
    split
    · next h => simp [h]
    · rw [ih _ _ _ (by rw [pow_succ] at he; omega)]
      have hb : (b * b % n) ^ (e / 2) ≡ b ^ (2 * (e / 2)) [MOD n] := by
        rw [pow_mul, pow_two]; exact (Nat.mod_modEq _ _).pow _
      split
      · next h =>
        have h2 : b ^ e = b * b ^ (2 * (e / 2)) := by rw [← pow_succ']; congr 1; omega
        rw [h2, ← mul_assoc]
        exact (Nat.mod_modEq _ _).mul hb
      · next h =>
        have h2 : b ^ e = b ^ (2 * (e / 2)) := by congr 1; omega
        rw [h2]
        exact hb.mul_left _

/-- What a Lucas certificate (a, fs) for n must satisfy: fs multiplies to n − 1, a^(n−1) = 1 and a^((n−1)/q) ≠ 1 for
every q of fs. -/
def lucasCheck (n a : Nat) (fs : List Nat) : Bool :=
  decide (1 < n) && decide (n < 2 ^ 400) && decide (fs.prod = n - 1) && decide (powMod n 400 a (n - 1) 1 % n = 1) &&
    fs.all fun q => decide (powMod n 400 a ((n - 1) / q) 1 % n ≠ 1)

theorem prime_of_lucas (n a : Nat) (fs : List Nat) (h : lucasCheck n a fs = true) (hp : ∀ q ∈ fs, Nat.Prime q) :
    Nat.Prime n := by
  simp only [lucasCheck, Bool.and_eq_true, decide_eq_true_eq, List.all_eq_true] at h
  obtain ⟨⟨⟨⟨h1, hn⟩, hprod⟩, hpow⟩, hq⟩ := h
  have cast_eq_one (k : Nat) (hk : k < 2 ^ 400) : (a : ZMod n) ^ k = 1 ↔ powMod n 400 a k 1 % n = 1 := by
    rw [powMod_eq n 400 a k 1 hk, one_mul, ← Nat.cast_pow, ← Nat.cast_one, ZMod.natCast_eq_natCast_iff', Nat.mod_eq_of_lt h1]
  refine lucas_primality n a ((cast_eq_one _ (by omega)).2 hpow) fun q hqp hqd => ?_
  have hmem : q ∈ fs := by
    rw [← hprod] at hqd
    obtain ⟨r, hr, hqr⟩ := (Nat.Prime.prime hqp).dvd_prod_iff.1 hqd
    rwa [(Nat.prime_dvd_prime_iff_eq hqp (hp r hr)).1 hqr]
  exact fun hc => hq q hmem ((cast_eq_one _ (lt_of_le_of_lt (Nat.div_le_self _ _) (by omega))).1 hc)

theorem prime_52437899 : Nat.Prime 52437899 :=
  prime_of_lucas 52437899 2 [2, 43, 609743] (by decide +kernel) (by
    simp only [List.forall_mem_cons]; norm_num)

theorem prime_9272813673901 : Nat.Prime 9272813673901 :=
  prime_of_lucas 9272813673901 2 [2, 2, 3, 5, 5, 7, 7577, 582767] (by decide +kernel) (by
    simp only [List.forall_mem_cons]; norm_num)

theorem prime_1928745244171409 : Nat.Prime 1928745244171409 :=
  prime_of_lucas 1928745244171409 3 [2, 2, 2, 2, 13, 9272813673901] (by decide +kernel) (by
    simp only [List.forall_mem_cons, prime_9272813673901]; norm_num)

theorem prime_7259797099061183477 : Nat.Prime 7259797099061183477 :=
  prime_of_lucas 7259797099061183477 2 [2, 2, 941, 1928745244171409] (by decide +kernel) (by
    simp only [List.forall_mem_cons, prime_1928745244171409]; norm_num)

theorem prime_2584487767265781317813 : Nat.Prime 2584487767265781317813 :=
  prime_of_lucas 2584487767265781317813 2 [2, 2, 89, 7259797099061183477] (by decide +kernel) (by
    simp only [List.forall_mem_cons, prime_7259797099061183477]; norm_num)

theorem prime_475709467 : Nat.Prime 475709467 :=
  prime_of_lucas 475709467 2 [2, 3, 47, 1686913] (by decide +kernel) (by
    simp only [List.forall_mem_cons]; norm_num)

theorem prime_927093389 : Nat.Prime 927093389 :=
  prime_of_lucas 927093389 3 [2, 2, 13, 409, 43591] (by decide +kernel) (by
    simp only [List.forall_mem_cons]; norm_num)

theorem prime_64881703735777 : Nat.Prime 64881703735777 :=
  prime_of_lucas 64881703735777 5 [2, 2, 2, 2, 2, 3, 3, 3, 3, 3, 3, 3, 927093389] (by decide +kernel) (by
    simp only [List.forall_mem_cons, prime_927093389]; norm_num)

theorem prime_92691255082156974996979 : Nat.Prime 92691255082156974996979 :=
  prime_of_lucas 92691255082156974996979 3 [2, 3, 31, 467, 16447, 64881703735777] (by decide +kernel) (by
    simp only [List.forall_mem_cons, prime_64881703735777]; norm_num)

theorem prime_51376543 : Nat.Prime 51376543 :=
  prime_of_lucas 51376543 3 [2, 3, 7, 151, 8101] (by decide +kernel) (by
    simp only [List.forall_mem_cons]; norm_num)

theorem prime_43670061551 : Nat.Prime 43670061551 :=
  prime_of_lucas 43670061551 7 [2, 5, 5, 17, 51376543] (by decide +kernel) (by
    simp only [List.forall_mem_cons, prime_51376543]; norm_num)

theorem prime_13090036741 : Nat.Prime 13090036741 :=
  prime_of_lucas 13090036741 10 [2, 2, 3, 5, 11, 47, 421987] (by decide +kernel) (by
    simp only [List.forall_mem_cons]; norm_num)

theorem prime_3819663927398918131021 : Nat.Prime 3819663927398918131021 :=
  prime_of_lucas 3819663927398918131021 6 [2, 2, 3, 3, 5, 19, 113, 755057, 13090036741] (by decide +kernel) (by
    simp only [List.forall_mem_cons, prime_13090036741]; norm_num)

theorem prime_1125266252156850182658904441386709967 : Nat.Prime 1125266252156850182658904441386709967 :=
  prime_of_lucas 1125266252156850182658904441386709967 5 [2, 3373, 43670061551, 3819663927398918131021] (by decide +kernel) (by
    simp only [List.forall_mem_cons, prime_43670061551, prime_3819663927398918131021]; norm_num)

theorem prime_15778400344354997994418419698270088123916926905054652752758194827714659 : Nat.Prime 15778400344354997994418419698270088123916926905054652752758194827714659 :=
  prime_of_lucas 15778400344354997994418419698270088123916926905054652752758194827714659 2 [2, 3, 53, 475709467, 92691255082156974996979, 1125266252156850182658904441386709967] (by decide +kernel) (by
    simp only [List.forall_mem_cons, prime_475709467, prime_92691255082156974996979, prime_1125266252156850182658904441386709967]; norm_num)

theorem p_prime : Nat.Prime Config.p :=
  prime_of_lucas Config.p 2 [2, 3, 3, 11, 23, 47, 10177, 859267, 52437899, 2584487767265781317813, 15778400344354997994418419698270088123916926905054652752758194827714659] (by decide +kernel) (by
    simp only [List.forall_mem_cons, prime_52437899, prime_2584487767265781317813, prime_15778400344354997994418419698270088123916926905054652752758194827714659]; norm_num)

end Sys2Proof.Laws
end

