-- ==== Sys2Proof/Laws/Field.lean ====
section
/-! SUPPORT. The field-word functions in the field ZMod p: each result lies in [0, p), and each function is the ring
operation on casts, with `rinv` the inverse of the Montgomery radix.  An equation between canonical words follows from the
same equation between their casts (`eq_of_cast_eq`), where `ring` works. -/

namespace Sys2Proof.Laws

open Sys2Proof Sys2Proof.Machine

theorem p_fact : Fact (Nat.Prime Config.p) := ⟨p_prime⟩

theorem p_pos : 0 < Config.p := p_prime.pos

theorem p_lt_word : Config.p < 2 ^ 384 := by decide +kernel

theorem p_mod_four : Config.p % 4 = 3 := by decide +kernel

/-! ## The constants of R36 are what their names say -/

theorem one_def : Config.one = Config.rm % Config.p := by decide +kernel
theorem r2_def : Config.r2 = Config.rm * Config.rm % Config.p := by decide +kernel
theorem r3_def : Config.r3 = Config.rm * Config.rm * Config.rm % Config.p := by decide +kernel
theorem rinv_def : Config.rinv * Config.rm % Config.p = 1 := by decide +kernel
theorem pPrime_def : (Config.pPrime * Config.p + 1) % 2 ^ 64 = 0 := by decide +kernel
theorem m4_def : Config.m4 = toMont 4 := by decide +kernel
theorem generator_def :
    Config.gx0 = toMont Config.genX0 ∧ Config.gx1 = toMont Config.genX1 ∧
    Config.gy0 = toMont Config.genY0 ∧ Config.gy1 = toMont Config.genY1 := by decide +kernel

/-! ## Bounds -/

theorem addp_lt (a b : Nat) : addp a b < Config.p := Nat.mod_lt _ p_pos
theorem subp_lt (a b : Nat) : subp a b < Config.p := Nat.mod_lt _ p_pos
theorem negp_lt (a : Nat) : negp a < Config.p := Nat.mod_lt _ p_pos
theorem mont_lt (a b : Nat) : mont a b < Config.p := Nat.mod_lt _ p_pos
theorem valOf_lt (w : Nat) : valOf w < Config.p := Nat.mod_lt _ p_pos
theorem toMont_lt (x : Nat) : toMont x < Config.p := Nat.mod_lt _ p_pos
theorem one_lt : Config.one < Config.p := by decide +kernel

theorem halfp_lt {x : Nat} (h : x < Config.p) : halfp x < Config.p := by
  unfold halfp
  have := p_pos
  split <;> omega

theorem expLoop_lt (a : Nat) (e k : Nat) {acc : Nat} (h : acc < Config.p) : expLoop a e k acc < Config.p := by
  induction k generalizing acc with
  | zero => exact h
  | succ k ih =>
    unfold expLoop
    exact ih (by split <;> exact mont_lt _ _)

theorem expm_lt (a : Nat) (e : Nat) : expm a e < Config.p := expLoop_lt a e 1024 one_lt

theorem invFw_lt (mode : InvMode) (w : Nat) : invFw mode w < Config.p := by
  cases mode with
  | fermat => exact expm_lt _ _
  | egcd =>
    simp only [invFw]
    split
    · exact p_pos
    · exact mont_lt _ _

/-- A canonical field word survives being stored in a W word. -/
theorem toNat_fw {x : Nat} (h : x < Config.p) : (fw x).toNat = x := by
  rw [fw, BitVec.toNat_ofNat]
  exact Nat.mod_eq_of_lt (Nat.lt_trans h p_lt_word)

/-! ## Casts to ZMod p -/

theorem cast_mod_p (n : Nat) : ((n % Config.p : Nat) : ZMod Config.p) = n := by simp

theorem cast_addp (a b : Nat) : ((addp a b : Nat) : ZMod Config.p) = a + b := by simp [addp]

theorem cast_subp (a : Nat) {b : Nat} (h : b < Config.p) : ((subp a b : Nat) : ZMod Config.p) = a - b := by
  simp [subp, Nat.cast_sub h.le, sub_eq_add_neg]

theorem cast_negp {a : Nat} (h : a < Config.p) : ((negp a : Nat) : ZMod Config.p) = -a := by
  simp [negp, Nat.cast_sub h.le]

theorem cast_mont (a b : Nat) : ((mont a b : Nat) : ZMod Config.p) = a * b * Config.rinv := by simp [mont]

theorem cast_one : ((Config.one : Nat) : ZMod Config.p) = Config.rm := by rw [one_def, cast_mod_p]

theorem cast_rinv_rm : ((Config.rinv : Nat) : ZMod Config.p) * Config.rm = 1 := by
  rw [← Nat.cast_mul, ← cast_mod_p, rinv_def, Nat.cast_one]

theorem cast_valOf (w : Nat) : ((valOf w : Nat) : ZMod Config.p) = w * Config.rinv := by simp [valOf]

theorem cast_toMont (x : Nat) : ((toMont x : Nat) : ZMod Config.p) = x * Config.rm := by simp [toMont]

/-- Two canonical words with the same cast are the same word. -/
theorem eq_of_cast_eq {a b : Nat} (ha : a < Config.p) (hb : b < Config.p)
    (h : (a : ZMod Config.p) = b) : a = b := by
  have := (ZMod.natCast_eq_natCast_iff' a b Config.p).1 h
  rwa [Nat.mod_eq_of_lt ha, Nat.mod_eq_of_lt hb] at this

/-! ## The tower functions give canonical values -/

theorem f2add_canon (a b : Fp2) : Canon2 (f2add a b) := ⟨addp_lt _ _, addp_lt _ _⟩
theorem f2sub_canon (a b : Fp2) : Canon2 (f2sub a b) := ⟨subp_lt _ _, subp_lt _ _⟩
theorem f2neg_canon (a : Fp2) : Canon2 (f2neg a) := ⟨negp_lt _, negp_lt _⟩
theorem f2dbl_canon (a : Fp2) : Canon2 (f2dbl a) := ⟨addp_lt _ _, addp_lt _ _⟩
theorem f2mul_canon (a b : Fp2) : Canon2 (f2mul a b) := ⟨subp_lt _ _, subp_lt _ _⟩
theorem f2sqr_canon (a : Fp2) : Canon2 (f2sqr a) := ⟨mont_lt _ _, addp_lt _ _⟩
theorem f2mulnr_canon (a : Fp2) : Canon2 (f2mulnr a) := ⟨subp_lt _ _, addp_lt _ _⟩
theorem f2inv_canon (mode : InvMode) (a : Fp2) : Canon2 (f2inv mode a) := ⟨mont_lt _ _, negp_lt _⟩
theorem f2conj_canon {a : Fp2} (h : Canon2 a) : Canon2 (f2conj a) := ⟨h.1, negp_lt _⟩

theorem f2one_canon : Canon2 f2one := ⟨one_lt, p_pos⟩
theorem f2zero_canon : Canon2 f2zero := ⟨p_pos, p_pos⟩
theorem g2zero_canon : CanonG2 g2zero := ⟨f2zero_canon, f2one_canon, f2zero_canon⟩

theorem f6add_canon (a b : Fp6) : Canon6 (f6add a b) := ⟨f2add_canon _ _, f2add_canon _ _, f2add_canon _ _⟩
theorem f6sub_canon (a b : Fp6) : Canon6 (f6sub a b) := ⟨f2sub_canon _ _, f2sub_canon _ _, f2sub_canon _ _⟩
theorem f6neg_canon (a : Fp6) : Canon6 (f6neg a) := ⟨f2neg_canon _, f2neg_canon _, f2neg_canon _⟩
theorem f6mul_canon (a b : Fp6) : Canon6 (f6mul a b) := ⟨f2add_canon _ _, f2add_canon _ _, f2add_canon _ _⟩
theorem f6mulnr_canon {a : Fp6} (h : Canon6 a) : Canon6 (f6mulnr a) := ⟨f2mulnr_canon _, h.1, h.2.1⟩
theorem f6inv_canon (mode : InvMode) (a : Fp6) : Canon6 (f6inv mode a) :=
  ⟨f2mul_canon _ _, f2mul_canon _ _, f2mul_canon _ _⟩

theorem f12mul_canon (a b : Fp12) : Canon12 (f12mul a b) := ⟨f6add_canon _ _, f6sub_canon _ _⟩

/-! ## The point functions keep canonical points canonical -/

theorem pointNeg_canon {P : G2} (h : CanonG2 P) : CanonG2 (pointNeg P) := ⟨h.1, f2neg_canon _, h.2.2⟩

theorem pointDbl_canon {P : G2} (h : CanonG2 P) : CanonG2 (pointDbl P) := by
  unfold pointDbl
  split
  · exact h
  · exact ⟨f2sub_canon _ _, f2sub_canon _ _, f2dbl_canon _⟩

theorem pointAdd_canon {P Q : G2} (hP : CanonG2 P) (hQ : CanonG2 Q) : CanonG2 (pointAdd P Q) := by
  unfold pointAdd
  split
  · exact hQ
  · split
    · exact hP
    · dsimp only
      split
      · split
        · exact pointDbl_canon hP
        · exact g2zero_canon
      · exact ⟨f2sub_canon _ _, f2sub_canon _ _, f2mul_canon _ _⟩

theorem pointAddMixed_canon {P : G2} {A : Aff} (hP : CanonG2 P) (hx : Canon2 A.x) (hy : Canon2 A.y) :
    CanonG2 (pointAddMixed P A) := by
  unfold pointAddMixed
  split
  · exact ⟨hx, hy, f2one_canon⟩
  · dsimp only
    split
    · split
      · exact pointDbl_canon hP
      · exact g2zero_canon
    · exact ⟨f2sub_canon _ _, f2sub_canon _ _, f2sub_canon _ _⟩

end Sys2Proof.Laws
end

