-- ==== Sys2Proof/Laws/Command.lean ====
section
/-! SUPPORT. What a command can do, said once: `exec` is HALT's end of the run or the command cycle of spec/40_control.md
R130, and the cycle has three outcomes. -/

namespace Sys2Proof.Laws

open Sys2Proof Sys2Proof.Machine

theorem fp2_words_length (a : Fp2) : a.words.length = 2 := rfl
theorem fp6_words_length (a : Fp6) : a.words.length = 6 := rfl
theorem fp12_words_length (a : Fp12) : a.words.length = 12 := rfl
theorem g2_words_length (P : G2) : P.words.length = 6 := rfl
theorem rdRaw_length (s : State) (b n : Nat) : (s.rdRaw b n).length = n := by simp [State.rdRaw]
theorem ldcWords_length (k : LdcConst) : (ldcWords k).length = ldcSize k := by cases k <;> rfl

theorem exec_halt (s : State) : exec .halt s = .next (endHalt s) := rfl

/-- Every command but HALT is the command cycle with a result as long as its destination (NOP has neither). -/
theorem exec_eq_command (i : Instr) (s : State) (h : i ≠ .halt) :
    ∃ rd ws, exec i s = command i rd ws s ∧ (destOf i = some (rd, ws.length) ∨ (i = .nop ∧ ws = [])) := by
  cases i with
  | halt => exact absurd rfl h
  | nop => exact ⟨0, [], rfl, Or.inr ⟨rfl, rfl⟩⟩
  | mov rd rs1 n => exact ⟨rd, _, rfl, Or.inl (by simp [destOf, rdRaw_length])⟩
  | ldc rd k => exact ⟨rd, _, rfl, Or.inl (by simp [destOf, ldcWords_length])⟩
  | _ => exact ⟨_, _, rfl, Or.inl rfl⟩

/-- The three outcomes of the command cycle (R130): an error found by the check, PC_OVERFLOW after address 255, or the
next address. -/
theorem command_cases (i : Instr) (rd : WIdx) (ws : List Word) (s : State) :
    (∃ e, check i s = some e ∧ command i rd ws s = .next (endError e s.pc (encode i) s)) ∨
    (check i s = none ∧ s.pc = 255 ∧
      command i rd ws s = .next (endError .pcOverflow 255 (encode i) (s.writeWords rd.toNat ws))) ∨
    (check i s = none ∧ s.pc ≠ 255 ∧
      command i rd ws s = .next { s.writeWords rd.toNat ws with pc := s.pc + 1 }) := by
  unfold command
  cases hc : check i s with
  | some e => exact Or.inl ⟨e, rfl, rfl⟩
  | none =>
    have hpc := State.writeWords_pc s rd.toNat ws
    by_cases hp : s.pc = 255
    · exact Or.inr (Or.inl ⟨rfl, hp, by simp only [advance, hpc, hp, if_true]⟩)
    · exact Or.inr (Or.inr ⟨rfl, hp, by simp only [advance, hpc, if_neg hp]⟩)

/-- A command always answers a next state: no meaning faults or refuses. -/
theorem exec_next (i : Instr) (s : State) : ∃ t, exec i s = .next t := by
  by_cases h : i = .halt
  · exact ⟨_, by rw [h]; rfl⟩
  · obtain ⟨rd, ws, he, -⟩ := exec_eq_command i s h
    rw [he]
    rcases command_cases i rd ws s with ⟨e, -, h⟩ | ⟨-, -, h⟩ | ⟨-, -, h⟩ <;> exact ⟨_, h⟩

/-! ## The check procedure, in the words of R303 -/

theorem rangesOk_iff (i : Instr) : rangesOk i = true ↔ ∀ o ∈ operandsOf i, o.1.toNat + o.2 ≤ 256 := by
  simp [rangesOk, inRange]

theorem mem_sourceIndices (i : Instr) (k : Nat) :
    k ∈ sourceIndices i ↔ ∃ o ∈ sourcesOf i, o.1.toNat ≤ k ∧ k < o.1.toNat + o.2 := by
  simp [sourceIndices, indicesOf, List.mem_flatMap]

theorem sourcesCanonical_iff (i : Instr) (s : State) (h : checksCanonical i = true) :
    sourcesCanonical i s = true ↔ ∀ o ∈ sourcesOf i, CanonW s o.1 o.2 := by
  simp only [sourcesCanonical, h, Bool.not_true, Bool.false_or, List.all_eq_true, mem_sourceIndices, State.canonical,
    decide_eq_true_eq, CanonW]
  constructor
  · intro hall o ho j hj
    exact hall _ ⟨o, ho, Nat.le_add_right _ _, by omega⟩
  · rintro hall k ⟨o, ho, h1, h2⟩
    have := hall o ho (k - o.1.toNat) (by omega)
    rwa [Nat.add_sub_cancel' h1] at this

theorem check_eq_none_iff (i : Instr) (s : State) :
    check i s = none ↔ i.wellFormed = true ∧ rangesOk i = true ∧ sourcesCanonical i s = true := by
  unfold check
  cases i.wellFormed <;> cases rangesOk i <;> cases sourcesCanonical i s <;> simp

/-! ## Canonical sources as tower values -/

theorem canon_rdFp {s : State} {b : WIdx} (h : CanonW s b 1) : s.rdFp b.toNat < Config.p := h 0 Nat.one_pos

theorem canon_rdFp2_at {s : State} {b : WIdx} {n k : Nat} (h : CanonW s b n) (hk : k + 2 ≤ n) :
    Canon2 (s.rdFp2 (b.toNat + k)) :=
  ⟨h k (by omega), by simpa only [Nat.add_assoc, State.rdFp2, State.rdFp] using h (k + 1) (by omega)⟩

theorem canon_rdFp2 {s : State} {b : WIdx} (h : CanonW s b 2) : Canon2 (s.rdFp2 b.toNat) := canon_rdFp2_at (k := 0) h le_rfl

theorem canon_rdFp6_at {s : State} {b : WIdx} {n k : Nat} (h : CanonW s b n) (hk : k + 6 ≤ n) :
    Canon6 (s.rdFp6 (b.toNat + k)) :=
  ⟨canon_rdFp2_at h (by omega),
   by simpa only [Nat.add_assoc, State.rdFp6] using canon_rdFp2_at h (k := k + 2) (by omega),
   by simpa only [Nat.add_assoc, State.rdFp6] using canon_rdFp2_at h (k := k + 4) (by omega)⟩

theorem canon_rdFp6 {s : State} {b : WIdx} (h : CanonW s b 6) : Canon6 (s.rdFp6 b.toNat) := canon_rdFp6_at (k := 0) h le_rfl

theorem canon_rdFp12 {s : State} {b : WIdx} (h : CanonW s b 12) : Canon12 (s.rdFp12 b.toNat) :=
  ⟨canon_rdFp6_at (k := 0) h (by omega), canon_rdFp6_at (k := 6) h le_rfl⟩

theorem canon_rdG2 {s : State} {b : WIdx} (h : CanonW s b 6) : CanonG2 (s.rdG2 b.toNat) :=
  ⟨canon_rdFp2_at (k := 0) h (by omega), canon_rdFp2_at (k := 2) h (by omega), canon_rdFp2_at (k := 4) h le_rfl⟩

end Sys2Proof.Laws
end

