-- ==== Sys2Proof/Laws/Decode.lean ====
section
/-! SUPPORT. The four fields of a command word: packing and unpacking are inverse, and a mask acts field by field. -/

namespace Sys2Proof.Laws

open Sys2Proof

/-- The bits of a packed word, field by field (R100). -/
theorem getLsbD_packFields (op rd a b : BitVec 8) (i : Nat) :
    (packFields op rd a b).getLsbD i =
      if i < 8 then b.getLsbD i
      else if i < 16 then a.getLsbD (i - 8)
      else if i < 24 then rd.getLsbD (i - 16)
      else op.getLsbD (i - 24) := by
  have h : (packFields op rd a b).getLsbD i = ((op ++ rd ++ a ++ b : BitVec (8 + 8 + 8 + 8))).getLsbD i := rfl
  rw [h]
  simp only [BitVec.getLsbD_append, Nat.sub_sub]
  split_ifs <;> first | rfl | omega

theorem opOf_packFields (op rd a b : BitVec 8) : opOf (packFields op rd a b) = op := by
  apply BitVec.eq_of_getLsbD_eq
  intro i hi
  have h1 : ¬ 24 + i < 8 := by omega
  have h2 : ¬ 24 + i < 16 := by omega
  have h3 : ¬ 24 + i < 24 := by omega
  simp [opOf, getLsbD_packFields, hi, h1, h2, h3]

theorem rdOf_packFields (op rd a b : BitVec 8) : rdOf (packFields op rd a b) = rd := by
  apply BitVec.eq_of_getLsbD_eq
  intro i hi
  have h1 : ¬ 16 + i < 8 := by omega
  have h2 : ¬ 16 + i < 16 := by omega
  have h3 : 16 + i < 24 := by omega
  simp [rdOf, getLsbD_packFields, hi, h1, h2, h3]

theorem rs1Of_packFields (op rd a b : BitVec 8) : rs1Of (packFields op rd a b) = a := by
  apply BitVec.eq_of_getLsbD_eq
  intro i hi
  have h1 : ¬ 8 + i < 8 := by omega
  have h2 : 8 + i < 16 := by omega
  simp [rs1Of, getLsbD_packFields, hi, h1, h2]

theorem rs2Of_packFields (op rd a b : BitVec 8) : rs2Of (packFields op rd a b) = b := by
  apply BitVec.eq_of_getLsbD_eq
  intro i hi
  simp [rs2Of, getLsbD_packFields, hi]

/-- A word is its four fields. -/
theorem packFields_fields (w : Word32) : packFields (opOf w) (rdOf w) (rs1Of w) (rs2Of w) = w := by
  apply BitVec.eq_of_getLsbD_eq
  intro i hi
  simp only [getLsbD_packFields, opOf, rdOf, rs1Of, rs2Of, BitVec.getLsbD_extractLsb']
  split_ifs with h1 h2 h3
  · simp [h1]
  · rw [show i - 8 < 8 by omega |> decide_eq_true, Bool.true_and, show 8 + (i - 8) = i by omega]
  · rw [show i - 16 < 8 by omega |> decide_eq_true, Bool.true_and, show 16 + (i - 16) = i by omega]
  · rw [show i - 24 < 8 by omega |> decide_eq_true, Bool.true_and, show 24 + (i - 24) = i by omega]

/-- A mask acts field by field. -/
theorem packFields_and (op rd a b op' rd' a' b' : BitVec 8) :
    packFields op rd a b &&& packFields op' rd' a' b' = packFields (op &&& op') (rd &&& rd') (a &&& a') (b &&& b') := by
  apply BitVec.eq_of_getLsbD_eq
  intro i hi
  simp only [BitVec.getLsbD_and, getLsbD_packFields]
  split_ifs <;> rfl

theorem packFields_inj {op rd a b op' rd' a' b' : BitVec 8}
    (h : packFields op rd a b = packFields op' rd' a' b') : op = op' ∧ rd = rd' ∧ a = a' ∧ b = b' := by
  refine ⟨?_, ?_, ?_, ?_⟩
  · rw [← opOf_packFields op rd a b, h, opOf_packFields]
  · rw [← rdOf_packFields op rd a b, h, rdOf_packFields]
  · rw [← rs1Of_packFields op rd a b, h, rs1Of_packFields]
  · rw [← rs2Of_packFields op rd a b, h, rs2Of_packFields]

/-- The masks of R104 as fields. -/
theorem mask_ffffffff : 0xFFFFFFFF#32 = packFields 0xFF 0xFF 0xFF 0xFF := by decide
theorem mask_ff000000 : 0xFF000000#32 = packFields 0xFF 0 0 0 := by decide
theorem mask_ff0000ff : 0xFF0000FF#32 = packFields 0xFF 0 0 0xFF := by decide
theorem mask_ff0000fe : 0xFF0000FE#32 = packFields 0xFF 0 0 0xFE := by decide
theorem mask_ff0000fc : 0xFF0000FC#32 = packFields 0xFF 0 0 0xFC := by decide
theorem mask_ff00ff00 : 0xFF00FF00#32 = packFields 0xFF 0 0xFF 0 := by decide

end Sys2Proof.Laws
end

