-- ==== Sys2Proof/Laws/PerInstr.lean ====
section
/-! SUPPORT. Facts about every instruction as syntax, one lemma per constructor. -/

namespace Sys2Proof.Laws

open Sys2Proof

/-- The word of a command carries its opcode in bits 31:24 (spec/30_encoding.md R100). -/
def EncodedFields.Statement (i : Instr) : Prop := opOf (encode i) = i.opcode

theorem EncodedFields.nop : EncodedFields.Statement .nop := opOf_packFields _ _ _ _
theorem EncodedFields.halt : EncodedFields.Statement .halt := opOf_packFields _ _ _ _
theorem EncodedFields.mov (rd rs1 : WIdx) (n : BitVec 8) : EncodedFields.Statement (.mov rd rs1 n) := opOf_packFields _ _ _ _
theorem EncodedFields.ldc (rd : WIdx) (k : LdcConst) : EncodedFields.Statement (.ldc rd k) := opOf_packFields _ _ _ _
theorem EncodedFields.fadd (rd rs1 rs2 : WIdx) : EncodedFields.Statement (.fadd rd rs1 rs2) := opOf_packFields _ _ _ _
theorem EncodedFields.fsub (rd rs1 rs2 : WIdx) : EncodedFields.Statement (.fsub rd rs1 rs2) := opOf_packFields _ _ _ _
theorem EncodedFields.fneg (rd rs1 : WIdx) : EncodedFields.Statement (.fneg rd rs1) := opOf_packFields _ _ _ _
theorem EncodedFields.fdbl (rd rs1 : WIdx) : EncodedFields.Statement (.fdbl rd rs1) := opOf_packFields _ _ _ _
theorem EncodedFields.fmul (rd rs1 rs2 : WIdx) : EncodedFields.Statement (.fmul rd rs1 rs2) := opOf_packFields _ _ _ _
theorem EncodedFields.fsqr (rd rs1 : WIdx) : EncodedFields.Statement (.fsqr rd rs1) := opOf_packFields _ _ _ _
theorem EncodedFields.finv (rd rs1 : WIdx) (mode : InvMode) : EncodedFields.Statement (.finv rd rs1 mode) := opOf_packFields _ _ _ _
theorem EncodedFields.fexp (rd rs1 : WIdx) (k : SIdx) : EncodedFields.Statement (.fexp rd rs1 k) := opOf_packFields _ _ _ _
theorem EncodedFields.tomont (rd rs1 : WIdx) : EncodedFields.Statement (.tomont rd rs1) := opOf_packFields _ _ _ _
theorem EncodedFields.frommont (rd rs1 : WIdx) : EncodedFields.Statement (.frommont rd rs1) := opOf_packFields _ _ _ _
theorem EncodedFields.f2add (rd rs1 rs2 : WIdx) : EncodedFields.Statement (.f2add rd rs1 rs2) := opOf_packFields _ _ _ _
theorem EncodedFields.f2sub (rd rs1 rs2 : WIdx) : EncodedFields.Statement (.f2sub rd rs1 rs2) := opOf_packFields _ _ _ _
theorem EncodedFields.f2neg (rd rs1 : WIdx) : EncodedFields.Statement (.f2neg rd rs1) := opOf_packFields _ _ _ _
theorem EncodedFields.f2dbl (rd rs1 : WIdx) : EncodedFields.Statement (.f2dbl rd rs1) := opOf_packFields _ _ _ _
theorem EncodedFields.f2mul (rd rs1 rs2 : WIdx) : EncodedFields.Statement (.f2mul rd rs1 rs2) := opOf_packFields _ _ _ _
theorem EncodedFields.f2sqr (rd rs1 : WIdx) : EncodedFields.Statement (.f2sqr rd rs1) := opOf_packFields _ _ _ _
theorem EncodedFields.f2inv (rd rs1 : WIdx) (mode : InvMode) : EncodedFields.Statement (.f2inv rd rs1 mode) := opOf_packFields _ _ _ _
theorem EncodedFields.f2mulnr (rd rs1 : WIdx) : EncodedFields.Statement (.f2mulnr rd rs1) := opOf_packFields _ _ _ _
theorem EncodedFields.f2conj (rd rs1 : WIdx) : EncodedFields.Statement (.f2conj rd rs1) := opOf_packFields _ _ _ _
theorem EncodedFields.f6add (rd rs1 rs2 : WIdx) : EncodedFields.Statement (.f6add rd rs1 rs2) := opOf_packFields _ _ _ _
theorem EncodedFields.f6sub (rd rs1 rs2 : WIdx) : EncodedFields.Statement (.f6sub rd rs1 rs2) := opOf_packFields _ _ _ _
theorem EncodedFields.f6neg (rd rs1 : WIdx) : EncodedFields.Statement (.f6neg rd rs1) := opOf_packFields _ _ _ _
theorem EncodedFields.f6mul (rd rs1 rs2 : WIdx) : EncodedFields.Statement (.f6mul rd rs1 rs2) := opOf_packFields _ _ _ _
theorem EncodedFields.f6mul01 (rd rs1 rs2 : WIdx) : EncodedFields.Statement (.f6mul01 rd rs1 rs2) := opOf_packFields _ _ _ _
theorem EncodedFields.f6mul1 (rd rs1 rs2 : WIdx) : EncodedFields.Statement (.f6mul1 rd rs1 rs2) := opOf_packFields _ _ _ _
theorem EncodedFields.f6sqr (rd rs1 : WIdx) : EncodedFields.Statement (.f6sqr rd rs1) := opOf_packFields _ _ _ _
theorem EncodedFields.f6inv (rd rs1 : WIdx) (mode : InvMode) : EncodedFields.Statement (.f6inv rd rs1 mode) := opOf_packFields _ _ _ _
theorem EncodedFields.f6mulnr (rd rs1 : WIdx) : EncodedFields.Statement (.f6mulnr rd rs1) := opOf_packFields _ _ _ _
theorem EncodedFields.f12add (rd rs1 rs2 : WIdx) : EncodedFields.Statement (.f12add rd rs1 rs2) := opOf_packFields _ _ _ _
theorem EncodedFields.f12sub (rd rs1 rs2 : WIdx) : EncodedFields.Statement (.f12sub rd rs1 rs2) := opOf_packFields _ _ _ _
theorem EncodedFields.f12mul (rd rs1 rs2 : WIdx) : EncodedFields.Statement (.f12mul rd rs1 rs2) := opOf_packFields _ _ _ _
theorem EncodedFields.f12sqr (rd rs1 : WIdx) : EncodedFields.Statement (.f12sqr rd rs1) := opOf_packFields _ _ _ _
theorem EncodedFields.f12mul014 (rd rs1 rs2 : WIdx) : EncodedFields.Statement (.f12mul014 rd rs1 rs2) := opOf_packFields _ _ _ _
theorem EncodedFields.f12inv (rd rs1 : WIdx) (mode : InvMode) : EncodedFields.Statement (.f12inv rd rs1 mode) := opOf_packFields _ _ _ _
theorem EncodedFields.f12conj (rd rs1 : WIdx) : EncodedFields.Statement (.f12conj rd rs1) := opOf_packFields _ _ _ _
theorem EncodedFields.g2add (rd rs1 rs2 : WIdx) : EncodedFields.Statement (.g2add rd rs1 rs2) := opOf_packFields _ _ _ _
theorem EncodedFields.g2addm (rd rs1 rs2 : WIdx) : EncodedFields.Statement (.g2addm rd rs1 rs2) := opOf_packFields _ _ _ _
theorem EncodedFields.g2dbl (rd rs1 : WIdx) : EncodedFields.Statement (.g2dbl rd rs1) := opOf_packFields _ _ _ _
theorem EncodedFields.g2neg (rd rs1 : WIdx) : EncodedFields.Statement (.g2neg rd rs1) := opOf_packFields _ _ _ _
theorem EncodedFields.g2sub (rd rs1 rs2 : WIdx) : EncodedFields.Statement (.g2sub rd rs1 rs2) := opOf_packFields _ _ _ _
theorem EncodedFields.g2smul (rd rs1 : WIdx) (k : SIdx) : EncodedFields.Statement (.g2smul rd rs1 k) := opOf_packFields _ _ _ _
theorem EncodedFields.g2smulw (rd rs1 : WIdx) (k : SIdx) : EncodedFields.Statement (.g2smulw rd rs1 k) := opOf_packFields _ _ _ _

end Sys2Proof.Laws
end

