-- ==== Sys2Proof/Laws/Step.lean ====
section
/-! SUPPORT. What one step is, for each head of the schedule. -/

namespace Sys2Proof.Laws

open Sys2Proof Sys2Proof.Machine

theorem step_unscheduled {s : State} (h : s.script = []) : step s = coreStep s := by simp [step, h]

theorem step_core {s : State} {rest : List Action} (h : s.script = .core :: rest) :
    step s = coreStep { s with script := rest } := by simp [step, h]

theorem step_read {s : State} {n : Nat} {off : Offset} {rest : List Action} (h : s.script = .read n off :: rest) :
    step s = readStep n off { s with script := rest } := by simp [step, h]

theorem step_write {s : State} {n : Nat} {off : Offset} {v : Word32} {rest : List Action}
    (h : s.script = .write n off v :: rest) : step s = writeStep n off v { s with script := rest } := by simp [step, h]

theorem step_reset {s : State} {rest : List Action} (h : s.script = .reset :: rest) :
    step s = .next (resetPulse { s with script := rest }) := by simp [step, h]

theorem coreStep_idle {s : State} (h : s.busy = false) : coreStep s = .next s := by simp [coreStep, h]

/-- What a core step can do (R130): nothing while idle, the fault of an unwritten entry, a decoding error, or the
fetched command. -/
theorem coreStep_cases (s : State) :
    (s.busy = false ∧ coreStep s = .next s) ∨
    (s.busy = true ∧ s.fetch = none ∧ coreStep s = .fault (.uninit (.cmd s.pc.toNat))) ∨
    (∃ w e, s.busy = true ∧ s.fetch = some w ∧ decode w = .error e ∧
      coreStep s = .next (endError (ErrCode.ofDecode e) s.pc w s)) ∨
    (∃ w i, s.busy = true ∧ s.fetch = some w ∧ decode w = .ok i ∧ coreStep s = exec i s) := by
  unfold coreStep
  cases hb : s.busy with
  | false => exact Or.inl ⟨rfl, rfl⟩
  | true =>
    cases hf : s.fetch with
    | none => exact Or.inr (Or.inl ⟨rfl, rfl, by simp⟩)
    | some w =>
      cases hd : decode w with
      | error e => exact Or.inr (Or.inr (Or.inl ⟨w, e, rfl, rfl, hd, by simp [hd]⟩))
      | ok i => exact Or.inr (Or.inr (Or.inr ⟨w, i, rfl, rfl, hd, by simp [hd]⟩))

/-- The word that `withFetchWord` stores is the word the next fetch reads. -/
theorem withFetchWord_fetch (s : State) (nbits w : Nat) :
    (s.withFetchWord nbits w).fetch = some (BitVec.ofNat 32 (w % 2 ^ nbits)) :=
  memory_read_write_self _ _ _

end Sys2Proof.Laws
end

