-- ==== Sys2Proof/Laws/Uninit.lean ====
section
/-! SUPPORT. What the visit of a command's source words finds (spec/60_exceptions.md R303, spec/70_reset_and_hazards.md
R343). -/

namespace Sys2Proof.Laws

open Sys2Proof Sys2Proof.Machine

/-- The word a visit stops at is the first that has not been written, and every word before it is canonical. -/
theorem visitSources_unwritten {canon : Bool} {s : State} {js : List Nat} {j : Nat}
    (h : visitSources canon s js = .unwritten j) :
    s.wWritten j = false ∧
    ∃ before after, js = before ++ j :: after ∧ ∀ m ∈ before, canon = true → s.canonical m = true := by
  induction js with
  | nil => cases h
  | cons i is ih =>
    unfold visitSources at h
    split at h
    · next hw => cases h; exact ⟨by simpa using hw, [], is, rfl, by simp⟩
    · split at h
      · cases h
      · next hc =>
        obtain ⟨hj, before, after, rfl, hb⟩ := ih h
        refine ⟨hj, i :: before, after, rfl, ?_⟩
        rintro m (_ | ⟨_, hm⟩) hcan
        · simpa [hcan] using hc
        · exact hb m hm hcan

/-- A visit that is completed has found every word written and, where they are checked, canonical. -/
theorem visitSources_complete {canon : Bool} {s : State} {js : List Nat} (h : visitSources canon s js = .complete) :
    ∀ j ∈ js, s.wWritten j = true ∧ (canon = true → s.canonical j = true) := by
  induction js with
  | nil => simp
  | cons i is ih =>
    unfold visitSources at h
    split at h
    · cases h
    · next hw =>
      split at h
      · cases h
      · next hc =>
        rintro j (_ | ⟨_, hj⟩)
        · exact ⟨by simpa using hw, fun hcan => by simpa [hcan] using hc⟩
        · exact ih h j hj

/-- A visit that comes to an unwritten word stops at an unwritten one. -/
theorem visitSources_meets {canon : Bool} {s : State} {before after : List Nat} {j : Nat} (hj : s.wWritten j = false)
    (hb : ∀ m ∈ before, canon = true → s.canonical m = true) :
    ∃ m, visitSources canon s (before ++ j :: after) = .unwritten m := by
  induction before with
  | nil => exact ⟨j, by simp [visitSources, hj]⟩
  | cons i is ih =>
    obtain ⟨m, hm⟩ := ih fun m hm => hb m (List.mem_cons_of_mem _ hm)
    cases hw : s.wWritten i with
    | false => exact ⟨i, by simp [visitSources, hw]⟩
    | true =>
      have hi : (canon && !s.canonical i) = false := by
        cases hc : canon with
        | false => rfl
        | true => simp [hb i List.mem_cons_self hc]
      exact ⟨m, by simp [visitSources, hw, hi, hm]⟩

end Sys2Proof.Laws
end

