-- ==== Sys2Proof/Machine/Asm.lean ====
section
/-! DEFINITION. The assembler syntax and the pseudo-instructions (spec/30_encoding.md R109, R110).  Syntax is not behaviour
(spec/92_eei_decisions.md D47); nothing of the machine depends on this file. -/

namespace Sys2Proof

/-- A command's mnemonic (R103). -/
def Instr.mnemonic : Instr → String
  | .nop => "NOP"
  | .halt => "HALT"
  | .mov .. => "MOV"
  | .ldc .. => "LDC"
  | .fadd .. => "FADD"
  | .fsub .. => "FSUB"
  | .fneg .. => "FNEG"
  | .fdbl .. => "FDBL"
  | .fmul .. => "FMUL"
  | .fsqr .. => "FSQR"
  | .finv .. => "FINV"
  | .fexp .. => "FEXP"
  | .tomont .. => "TOMONT"
  | .frommont .. => "FROMMONT"
  | .f2add .. => "F2ADD"
  | .f2sub .. => "F2SUB"
  | .f2neg .. => "F2NEG"
  | .f2dbl .. => "F2DBL"
  | .f2mul .. => "F2MUL"
  | .f2sqr .. => "F2SQR"
  | .f2inv .. => "F2INV"
  | .f2mulnr .. => "F2MULNR"
  | .f2conj .. => "F2CONJ"
  | .f6add .. => "F6ADD"
  | .f6sub .. => "F6SUB"
  | .f6neg .. => "F6NEG"
  | .f6mul .. => "F6MUL"
  | .f6mul01 .. => "F6MUL01"
  | .f6mul1 .. => "F6MUL1"
  | .f6sqr .. => "F6SQR"
  | .f6inv .. => "F6INV"
  | .f6mulnr .. => "F6MULNR"
  | .f12add .. => "F12ADD"
  | .f12sub .. => "F12SUB"
  | .f12mul .. => "F12MUL"
  | .f12sqr .. => "F12SQR"
  | .f12mul014 .. => "F12MUL014"
  | .f12inv .. => "F12INV"
  | .f12conj .. => "F12CONJ"
  | .g2add .. => "G2ADD"
  | .g2addm .. => "G2ADDM"
  | .g2dbl .. => "G2DBL"
  | .g2neg .. => "G2NEG"
  | .g2sub .. => "G2SUB"
  | .g2smul .. => "G2SMUL"
  | .g2smulw .. => "G2SMULW"

/-- A W base index, `w` and a decimal number (R109). -/
def asmW (b : WIdx) : String := "w" ++ toString b.toNat

/-- A scalar register, `s0` to `s3` (R109). -/
def asmS (k : SIdx) : String := "s" ++ toString k.toNat

/-- An LDC constant by name (R109). -/
def asmConst : LdcConst → String
  | .zero => "ZERO" | .one => "ONE" | .r2 => "R2" | .g2zero => "G2ZERO" | .g2gen => "G2GEN" | .b2 => "B2"

/-- An inversion mode by name (R109). -/
def asmMode : InvMode → String
  | .fermat => "fermat" | .egcd => "egcd"

/-- The operands in the order rd, rs1, rs2, unused ones left out (R109). -/
def asmOperands : Instr → List String
  | .nop | .halt => []
  | .mov rd a n => [asmW rd, asmW a, toString n.toNat]
  | .ldc rd k => [asmW rd, asmConst k]
  | .fadd rd a b | .fsub rd a b | .fmul rd a b | .f2add rd a b | .f2sub rd a b | .f2mul rd a b | .f6add rd a b
  | .f6sub rd a b | .f6mul rd a b | .f6mul01 rd a b | .f6mul1 rd a b | .f12add rd a b | .f12sub rd a b
  | .f12mul rd a b | .f12mul014 rd a b | .g2add rd a b | .g2addm rd a b | .g2sub rd a b => [asmW rd, asmW a, asmW b]
  | .fneg rd a | .fdbl rd a | .fsqr rd a | .tomont rd a | .frommont rd a | .f2neg rd a | .f2dbl rd a
  | .f2sqr rd a | .f2mulnr rd a | .f2conj rd a | .f6neg rd a | .f6sqr rd a | .f6mulnr rd a | .f12sqr rd a
  | .f12conj rd a | .g2dbl rd a | .g2neg rd a => [asmW rd, asmW a]
  | .finv rd a mode | .f2inv rd a mode | .f6inv rd a mode | .f12inv rd a mode => [asmW rd, asmW a, asmMode mode]
  | .fexp rd a k | .g2smul rd a k | .g2smulw rd a k => [asmW rd, asmW a, asmS k]

/-- One line of assembler text: the mnemonic, then the operands separated by commas (R109). -/
def asm (i : Instr) : String :=
  match asmOperands i with
  | [] => i.mnemonic
  | a :: as => i.mnemonic ++ " " ++ as.foldl (fun t x => t ++ ", " ++ x) a

/-- The pseudo-instructions (R110). -/
inductive Pseudo where
  | fmov (wd ws : WIdx) | f2mov (wd ws : WIdx) | f6mov (wd ws : WIdx) | g2mov (wd ws : WIdx) | f12mov (wd ws : WIdx)
  | fzero (wd : WIdx) | fone (wd : WIdx) | g2setzero (wd : WIdx) | g2setgen (wd : WIdx)
  | finv (wd ws : WIdx) | f2inv (wd ws : WIdx) | f6inv (wd ws : WIdx) | f12inv (wd ws : WIdx)
  deriving DecidableEq, Repr

/-- Their expansions (R110): an inversion whose mode is omitted is FERMAT. -/
def Pseudo.expand : Pseudo → Instr
  | .fmov d s => .mov d s 1
  | .f2mov d s => .mov d s 2
  | .f6mov d s => .mov d s 6
  | .g2mov d s => .mov d s 6
  | .f12mov d s => .mov d s 12
  | .fzero d => .ldc d .zero
  | .fone d => .ldc d .one
  | .g2setzero d => .ldc d .g2zero
  | .g2setgen d => .ldc d .g2gen
  | .finv d s => .finv d s .fermat
  | .f2inv d s => .f2inv d s .fermat
  | .f6inv d s => .f6inv d s .fermat
  | .f12inv d s => .f12inv d s .fermat

end Sys2Proof
end

