-- ==== Sys2Proof/Tests/Slice0.lean ====
section
/-! SUPPORT. Tests.  Every expected result comes from the spec: the encodings of spec/30_encoding.md, the examples of the
command rules, and the vectors of spec/95_test_vectors.md (named V-…, P1 to P6).  The names beginning `wit_` are witnesses
of the hypotheses of the statements. -/

set_option Elab.async false  -- one evaluation at a time

namespace Sys2Proof.Tests

open Sys2Proof Sys2Proof.Machine

/-! ## Helpers -/

/-- The word M(x) of an integer, x·2^384 mod p (95_test_vectors.md, Conventions). -/
def M (x : Int) : Nat := (x * 2 ^ 384 % Config.p).toNat

/-- A state with `ws` in W from base b on. -/
def place (b : Nat) (ws : List Nat) (s : State) : State := s.writeWords b (ws.map fw)

/-- The state after reset with `ws` in W[0], W[1], … -/
def start (ws : List Nat) : State := place 0 ws State.reset

/-- A state with a value in scalar register 0. -/
def scalar0 (e : Nat) (s : State) : State :=
  { s with sc := s.sc.set 0 (BitVec.ofNat 1024 e), sInit := s.sInit.set 0 (BitVec.allOnes 32) }

/-- The state after one step on this command word at pc. -/
def after (s : State) (w : Word32) : Option State :=
  match step (s.withFetchWord 32 w.toNat) with
  | .next t => some t
  | _ => none

/-- The n words of W from base b, after one step on this command word, if it ended in no error. -/
def result (s : State) (w : Word32) (b n : Nat) : Option (List Nat) :=
  match after s w with
  | some t =>
    if t.errcode = .none ∧ t.pc = s.pc + 1 then some ((List.range n).map fun j => (t.readW (b + j)).toNat) else none
  | none => none

/-- STATUS, PC, ERRPC and ERRCMD after one step on this command word. -/
def status (s : State) (w : Word32) : Option (Word32 × CmdAddr × CmdAddr × Word32) :=
  (after s w).map fun t => (t.statusWord, t.pc, t.errpc, t.errcmd)

/-- The error code after one step on this command word. -/
def code (s : State) (w : Word32) : Option ErrCode := (after s w).map (·.errcode)

/-! ## WellFormed: the one check, a MOV count (R101) -/

theorem test_wellFormed_mov_counts :
    (Instr.mov 0 1 0).wellFormed = false ∧ (Instr.mov 0 1 13).wellFormed = false ∧
    (Instr.mov 0 1 255).wellFormed = false ∧ (Instr.mov 0 1 1).wellFormed = true ∧
    (Instr.mov 0 1 12).wellFormed = true := by decide

/-- V-CT-12, V-CT-13: no word decodes to an ill-formed term. -/
theorem test_decode_refuses_mov_counts :
    decode 0x02000100#32 = .error .reservedField ∧ decode 0x0200010D#32 = .error .reservedField := by decide

/-! ## Decoding: a word written out from R100 and R103 for every command -/

theorem test_decode_control :
    decode 0x00000000#32 = .ok .nop ∧ decode 0x01000000#32 = .ok .halt ∧
    decode 0x02140006#32 = .ok (.mov 20 0 6) ∧ decode 0x02FE030C#32 = .ok (.mov 254 3 12) ∧
    decode 0x03070001#32 = .ok (.ldc 7 .one) ∧ decode 0x03280000#32 = .ok (.ldc 40 .zero) ∧
    decode 0x03000002#32 = .ok (.ldc 0 .r2) ∧ decode 0x03060003#32 = .ok (.ldc 6 .g2zero) ∧
    decode 0x03000004#32 = .ok (.ldc 0 .g2gen) ∧ decode 0x03140005#32 = .ok (.ldc 20 .b2) := by decide

theorem test_decode_fp :
    decode 0x10030102#32 = .ok (.fadd 3 1 2) ∧ decode 0x11020001#32 = .ok (.fsub 2 0 1) ∧
    decode 0x12060500#32 = .ok (.fneg 6 5) ∧ decode 0x13010000#32 = .ok (.fdbl 1 0) ∧
    decode 0x14040102#32 = .ok (.fmul 4 1 2) ∧ decode 0x15020000#32 = .ok (.fsqr 2 0) ∧
    decode 0x16020100#32 = .ok (.finv 2 1 .fermat) ∧ decode 0x16030101#32 = .ok (.finv 3 1 .egcd) ∧
    decode 0x17070101#32 = .ok (.fexp 7 1 1) ∧ decode 0x17040103#32 = .ok (.fexp 4 1 3) ∧
    decode 0x18010100#32 = .ok (.tomont 1 1) ∧ decode 0x19050400#32 = .ok (.frommont 5 4) := by decide

theorem test_decode_fp2 :
    decode 0x20040002#32 = .ok (.f2add 4 0 2) ∧ decode 0x21040002#32 = .ok (.f2sub 4 0 2) ∧
    decode 0x22FF0000#32 = .ok (.f2neg 255 0) ∧ decode 0x23040000#32 = .ok (.f2dbl 4 0) ∧
    decode 0x240A0608#32 = .ok (.f2mul 10 6 8) ∧ decode 0x25040000#32 = .ok (.f2sqr 4 0) ∧
    decode 0x26040001#32 = .ok (.f2inv 4 0 .egcd) ∧ decode 0x27040000#32 = .ok (.f2mulnr 4 0) ∧
    decode 0x28040000#32 = .ok (.f2conj 4 0) := by decide

theorem test_decode_fp6 :
    decode 0x300C0006#32 = .ok (.f6add 12 0 6) ∧ decode 0x310C0006#32 = .ok (.f6sub 12 0 6) ∧
    decode 0x320C0000#32 = .ok (.f6neg 12 0) ∧ decode 0x34FA0006#32 = .ok (.f6mul 250 0 6) ∧
    decode 0x351E0C28#32 = .ok (.f6mul01 30 12 40) ∧ decode 0x360C0008#32 = .ok (.f6mul1 12 0 8) ∧
    decode 0x370C0000#32 = .ok (.f6sqr 12 0) ∧ decode 0x380C0001#32 = .ok (.f6inv 12 0 .egcd) ∧
    decode 0x390C0000#32 = .ok (.f6mulnr 12 0) := by decide

theorem test_decode_fp12 :
    decode 0x40180C00#32 = .ok (.f12add 24 12 0) ∧ decode 0x41180C00#32 = .ok (.f12sub 24 12 0) ∧
    decode 0x44300024#32 = .ok (.f12mul 48 0 36) ∧ decode 0x45180000#32 = .ok (.f12sqr 24 0) ∧
    decode 0x4618000C#32 = .ok (.f12mul014 24 0 12) ∧ decode 0x480C0001#32 = .ok (.f12inv 12 0 .egcd) ∧
    decode 0x49180000#32 = .ok (.f12conj 24 0) := by decide

theorem test_decode_g2 :
    decode 0x501E1200#32 = .ok (.g2add 30 18 0) ∧ decode 0x510C0006#32 = .ok (.g2addm 12 0 6) ∧
    decode 0x52060000#32 = .ok (.g2dbl 6 0) ∧ decode 0x530C0000#32 = .ok (.g2neg 12 0) ∧
    decode 0x540C0000#32 = .ok (.g2sub 12 0 0) ∧ decode 0x58120001#32 = .ok (.g2smul 18 0 1) ∧
    decode 0x59180001#32 = .ok (.g2smulw 24 0 1) ∧ decode 0x59060003#32 = .ok (.g2smulw 6 0 3) := by decide

/-- Reserved fields and immediates (R104, V-CT-3, V-CT-7, V-FP-17, V-FP-27, P4d). -/
theorem test_decode_reserved :
    decode 0x01000001#32 = .error .reservedField ∧ decode 0x03000006#32 = .error .reservedField ∧
    decode 0x03000100#32 = .error .reservedField ∧ decode 0x16020002#32 = .error .reservedField ∧
    decode 0x17020004#32 = .error .reservedField ∧ decode 0x12000001#32 = .error .reservedField ∧
    decode 0x58060004#32 = .error .reservedField ∧ decode 0x22FF0001#32 = .error .reservedField := by decide

/-- Opcodes at the edges of the gaps of R106. -/
theorem test_decode_illegal :
    ∀ op ∈ [0x04, 0x0F, 0x1A, 0x1F, 0x29, 0x2F, 0x33, 0x3A, 0x3F, 0x42, 0x43, 0x47, 0x4A, 0x4F, 0x55, 0x57, 0x5A, 0xFF],
      decode (packFields op 0 0 0) = .error .illegalOpcode := by decide

/-- The encoding examples of R111, the other way round. -/
theorem test_encode_examples :
    encode (.mov 20 0 6) = 0x02140006#32 ∧ encode (.ldc 0 .g2gen) = 0x03000004#32 ∧
    encode (.finv 2 1 .egcd) = 0x16020101#32 ∧ encode (.fexp 4 1 2) = 0x17040102#32 ∧
    encode (.f6mul01 30 12 40) = 0x351E0C28#32 ∧ encode (.g2smulw 6 0 0) = 0x59060000#32 := by decide

/-- The table word of a row, through the host's name for the decoder. -/
theorem test_decodeTableWord :
    decodeTableWord 32 0x351E0C28 = some (.f6mul01 30 12 40) ∧ decodeTableWord 32 0x02000000 = none := by decide

/-- The assembler text of R109 and a pseudo-instruction of R110. -/
theorem test_asm :
    asm (.fadd 3 1 2) = "FADD w3, w1, w2" ∧ asm .halt = "HALT" ∧ asm (.finv 2 1 .egcd) = "FINV w2, w1, egcd" ∧
    asm (.fexp 4 1 2) = "FEXP w4, w1, s2" ∧ asm (.ldc 0 .g2gen) = "LDC w0, G2GEN" ∧
    (Pseudo.f12mov 12 0).expand = .mov 12 0 12 := by decide +kernel

/-! ## The constants (R36) and reset (R51) -/

/-- The defining properties of the ROM's derived words. -/
theorem test_constants :
    Config.one = 2 ^ 384 % Config.p ∧ Config.r2 = 2 ^ 768 % Config.p ∧ Config.r3 = 2 ^ 1152 % Config.p ∧
    Config.rinv * 2 ^ 384 % Config.p = 1 ∧ Config.pPrime * Config.p % 2 ^ 64 = 2 ^ 64 - 1 ∧ Config.m4 = M 4 ∧
    [Config.gx0, Config.gx1, Config.gy0, Config.gy1] =
      [M Config.genX0, M Config.genX1, M Config.genY0, M Config.genY1] := by decide +kernel

theorem test_reset :
    State.reset.statusWord = 0 ∧ State.reset.ctrlWord = 0 ∧ State.reset.irq = false ∧ State.reset.pc = 0 ∧
    State.reset.cmd.wf = true ∧ State.reset.fetch = none := by decide +kernel

/-- The parameters CORE_BASE and BUS_BYTE_ORDER (R70, R76). -/
theorem test_platform :
    windowOffset 0x40000000 0x40001004 = some 0x1004 ∧ windowOffset 0x40000000 0x40010000 = none ∧
    platformBytes .big 0x01020304#32 = [1, 2, 3, 4] ∧ platformBytes .little 0x01020304#32 = [4, 3, 2, 1] := by decide

/-! ## Control and data movement -/

theorem test_nop_at_0 : (after State.reset 0x00000000#32).map (fun t => (t.pc, t.busy, t.w)) =
    some (1, true, State.reset.w) := by decide +kernel

/-- V-CT-2. -/
theorem test_halt_at_0x10 :
    status { State.reset with pc := 0x10 } 0x01000000#32 = some (0x00000002#32, 0x10, 0, 0) := by decide +kernel

/-- V-CT-10: overlapping ranges copy as if through a temporary. -/
theorem test_mov_overlap : result (start [10, 11, 12, 13, 14, 15]) 0x02010006#32 0 7 =
    some [10, 10, 11, 12, 13, 14, 15] := by decide +kernel

/-- V-CT-11: MOV copies a non-canonical word. -/
theorem test_mov_noncanonical : result (start [Config.p]) 0x02010001#32 1 1 = some [Config.p] := by decide +kernel

/-- V-CT-4. -/
theorem test_ldc_one : result State.reset 0x03070001#32 7 1 = some
    [0x15f65ec3fa80e4935c071a97a256ec6d77ce5853705257455f48985753c758baebf4000bc40c0002760900000002fffd] := by
  decide +kernel

/-- V-CT-6, V-CT-8. -/
theorem test_ldc_g2gen :
    result State.reset 0x03000004#32 0 6 = some
      [0x058191924350bcd76f67b7631863366b9894999d1a3caee9a1a893b53e2ae580b3f5fb2687b4961af5f28fa202940a10,
       0x11922a097360edf3c2b6ed0ef21585471b1ab6cc8541b3673bb17e18e2867806aaa0c59dbccd60c3a5a9c0759e23f606,
       0x0083fd8e7e80dae507d3a975f0ef25a2bbefb5e96e0d495fe7e6856caa0a635a597cfa1f5e369c5a4c730af860494c4a,
       0x0b2bc2a163de1bf2e7175850a43ccaed79495c4ec93da33a86adac6a3be4eba018aa270a2b1461dcadc0fc92df64b05d,
       M 1, 0] ∧
    code State.reset 0x03FB0004#32 = some .operandRange := by decide +kernel

/-! ## Fp -/

/-- The words M(2), M(3), M(5), M(6), M(9) and M(−1) of R152. -/
theorem test_montgomery_words :
    M 2 = 0x11ebab9dbb81e28c6cf28d7901622c038b256521ed1f9bcb57605e0db0ddbb51b93c0018d6c40005321300000006554f ∧
    M 3 = 0x0de0f8777c82e0857dde005a606d6b999e7c71f069ece0514f7823c40df41de886840025e97c0007ee1d00000009aaa1 ∧
    M 5 = 0x05cb922afe84dc779fb4e61d1e83eac5c52a8b8d6387695d3fa7af30c820e316211400400eec000d6631000000105545 ∧
    M 6 = 0x01c0df04bf85da70b0a058fe7d8f2a5bd881985be054ade337bf74e7253745acee5c004d21a40010223b00000013aa97 ∧
    M 9 = 0x0fa1d77c3c08baf62e7e5958ddfc95f576fe0a4c4a418e34873798ab332b639574e000730b20001810580000001d5538 ∧
    M (-1) = 0x040ab3263eff0206ef148d1ea0f4c069eca8f3318332bb7a07e83a49a2e99d6932b7fff2ed47fffd43f5fffffffcaaae := by
  decide +kernel

/-- V-FP-1, V-FP-2, V-FP-4. -/
theorem test_fadd :
    result (start [M 2, M 3]) 0x10020001#32 2 1 = some [M 5] ∧
    result (start [Config.p - 1, 1]) 0x10020001#32 2 1 = some [0] ∧
    result (start [Config.p - 1, Config.p - 1]) 0x10020001#32 2 1 = some [Config.p - 2] := by decide +kernel

/-- V-FP-18: NONCANONICAL, and nothing is written. -/
theorem test_fadd_noncanonical :
    (after (start [Config.p, 0, 9]) 0x10020001#32).map (fun t => (t.errcode, t.errpc, t.readW 2)) =
      some (.noncanonical, 0, 9#384) := by decide +kernel

/-- V-FP-5, V-FP-6. -/
theorem test_fsub :
    result (start [0, M 1]) 0x11020001#32 2 1 = some [M (-1)] ∧
    result (start [M 7]) 0x11020000#32 2 1 = some [0] := by decide +kernel

/-- V-FP-7, V-FP-8. -/
theorem test_fneg :
    result (start [0]) 0x12020000#32 2 1 = some [0] ∧
    result (start [M 1]) 0x12020000#32 2 1 = some [M (-1)] := by decide +kernel

/-- V-FP-9. -/
theorem test_fdbl : result (start [M ((Config.p + 1) / 2)]) 0x13020000#32 2 1 = some [M 1] := by decide +kernel

/-- V-FP-10, V-FP-10a, V-FP-10b. -/
theorem test_fmul :
    result (start [M 2, M 3]) 0x14020001#32 2 1 = some [M 6] ∧
    result (start [1, 1]) 0x14020001#32 2 1 = some [Config.rinv] ∧
    result (start [Config.p - 1, Config.p - 1]) 0x14020001#32 2 1 = some [Config.rinv] := by decide +kernel

/-- V-FP-19. -/
theorem test_fmul_noncanonical : code (start [0, 2 ^ 384 - 1]) 0x14020001#32 = some .noncanonical := by decide +kernel

/-- V-FP-10c. -/
theorem test_fsqr : result (start [M (-1)]) 0x15020000#32 2 1 = some [M 1] := by decide +kernel

/-- V-FP-11. -/
theorem test_tomont : result (start [5]) 0x18020000#32 2 1 = some [M 5] := by decide +kernel

/-- V-FP-13 and the example of R148. -/
theorem test_frommont :
    result (start [M 1]) 0x19020000#32 2 1 = some [1] ∧
    result (start [M 5]) 0x19020000#32 2 1 = some [5] := by decide +kernel

/-- V-FP-14, V-FP-15. -/
theorem test_finv :
    result (start [0]) 0x16020000#32 2 1 = some [0] ∧ result (start [0]) 0x16020001#32 2 1 = some [0] ∧
    result (start [M 2]) 0x16020000#32 2 1 = some
      [0x17fbb8571a006596d3916126f2d14ca26e22d1ec31ebb502633cb57c253c276f855000053ab000011804000000015554] ∧
    result (start [M 2]) 0x16020001#32 2 1 = some
      [0x17fbb8571a006596d3916126f2d14ca26e22d1ec31ebb502633cb57c253c276f855000053ab000011804000000015554] := by
  decide +kernel

/-- P2: W2 and W3, the inverse of M(3) in both modes. -/
theorem test_finv_of_3 :
    result (start [M 3]) 0x16020000#32 2 1 = some
      [0x18a82b8824803b42a614ce0162fa175ec03efa7472742996b9e369ddc06317010dc400030ce6aaab4e02555555561c71] ∧
    result (start [M 3]) 0x16020001#32 2 1 = some
      [0x18a82b8824803b42a614ce0162fa175ec03efa7472742996b9e369ddc06317010dc400030ce6aaab4e02555555561c71] := by
  decide +kernel

/-- V-FP-20, V-FP-21, V-FP-22. -/
theorem test_fexp_small :
    result (scalar0 0 (start [0])) 0x17020000#32 2 1 = some [M 1] ∧
    result (scalar0 1 (start [0])) 0x17020000#32 2 1 = some [0] ∧
    result (scalar0 10 (start [M 2])) 0x17020000#32 2 1 = some [M 1024] := by decide +kernel

/-- V-FP-23, V-FP-24. -/
theorem test_fexp_fermat :
    result (scalar0 (Config.p - 1) (start [M 2])) 0x17020000#32 2 1 = some [M 1] ∧
    result (scalar0 Config.p (start [M 2])) 0x17020000#32 2 1 = some [M 2] := by decide +kernel

/-! ## Fp2, the start state 1 + 2u, 3 + 4u -/

/-- W0..W3 of the Fp2 vectors. -/
def fp2Start : State := start [M 1, M 2, M 3, M 4]

/-- V-FP2-1, V-FP2-10. -/
theorem test_f2add :
    result fp2Start 0x20040002#32 4 2 = some [M 4, M 6] ∧ result fp2Start 0x20010002#32 1 2 = some [M 4, M 6] := by
  decide +kernel

/-- V-FP2-2. -/
theorem test_f2sub : result fp2Start 0x21040002#32 4 2 = some [M (-2), M (-2)] := by decide +kernel

/-- V-FP2-3. -/
theorem test_f2neg : result fp2Start 0x22040000#32 4 2 = some [M (-1), M (-2)] := by decide +kernel

/-- V-FP2-4. -/
theorem test_f2dbl : result fp2Start 0x23040000#32 4 2 = some [M 2, M 4] := by decide +kernel

/-- V-FP2-5, V-FP2-11. -/
theorem test_f2mul :
    result fp2Start 0x24040002#32 4 2 = some [M (-5), M 10] ∧
    result (start [0, M 1]) 0x24040000#32 4 2 = some [M (-1), 0] := by decide +kernel

/-- V-FP2-6. -/
theorem test_f2sqr : result fp2Start 0x25040000#32 4 2 = some [M (-3), M 4] := by decide +kernel

/-- V-FP2-7. -/
theorem test_f2mulnr : result fp2Start 0x27040000#32 4 2 = some [M (-1), M 3] := by decide +kernel

/-- V-FP2-8. -/
theorem test_f2conj : result fp2Start 0x28040000#32 4 2 = some [M 1, M (-2)] := by decide +kernel

/-- V-FP2-9, in both modes. -/
theorem test_f2inv :
    result fp2Start 0x26040000#32 4 2 = some
      [0x0997e3560a668f09216d5a0f9453b840f8daba5e7a5e48675ae51564dbb1a95fceeccccee4466666d668000000008888,
       0x06d14b3e24b2c8880840f3971aa43c5572c1d6c7fec881f0b166a7d73f4da36480d26660e8c733320d2efffffffe999b] ∧
    result fp2Start 0x26040001#32 4 2 = some
      [0x0997e3560a668f09216d5a0f9453b840f8daba5e7a5e48675ae51564dbb1a95fceeccccee4466666d668000000008888,
       0x06d14b3e24b2c8880840f3971aa43c5572c1d6c7fec881f0b166a7d73f4da36480d26660e8c733320d2efffffffe999b] := by
  decide +kernel

/-- V-FP2-12. -/
theorem test_f2inv_zero : result (start [0, 0]) 0x26040001#32 4 2 = some [0, 0] := by decide +kernel

/-! ## Fp6 and Fp12: the elements a = M(1), M(2), … and b after it -/

/-- M(1), …, M(n) at W0, W1, … -/
def counting (n : Nat) : State := start ((List.range n).map fun j => M (j + 1))

/-- V-FP6-1. -/
theorem test_f6add : result (counting 12) 0x300C0006#32 12 6 = some ([8, 10, 12, 14, 16, 18].map M) := by
  decide +kernel

/-- V-FP6-2. -/
theorem test_f6sub : result (counting 12) 0x310C0006#32 12 6 = some ([-6, -6, -6, -6, -6, -6].map M) := by
  decide +kernel

/-- V-FP6-3. -/
theorem test_f6neg : result (counting 12) 0x320C0000#32 12 6 = some ([-1, -2, -3, -4, -5, -6].map M) := by
  decide +kernel

/-- V-FP6-4. -/
theorem test_f6mul : result (counting 12) 0x340C0006#32 12 6 = some ([-223, 176, -165, 189, -39, 182].map M) := by
  decide +kernel

/-- V-FP6-12, V-FP6-13, V-FP6-15: the largest legal bases. -/
theorem test_f6_ranges :
    code (counting 12) 0x350C00FC#32 = some .none ∧ code (counting 12) 0x350C00FD#32 = some .operandRange ∧
    code (counting 12) 0x34FA0006#32 = some .none ∧ code (counting 12) 0x34FB0000#32 = some .operandRange := by
  decide +kernel

/-- V-FP6-5. -/
theorem test_f6mul01 : result (counting 12) 0x350C0006#32 12 6 = some ([-128, 111, -22, 80, -26, 148].map M) := by
  decide +kernel

/-- V-FP6-6. -/
theorem test_f6mul1 : result (counting 12) 0x360C0008#32 12 6 = some ([-119, 89, -11, 28, -13, 66].map M) := by
  decide +kernel

/-- V-FP6-7. -/
theorem test_f6sqr : result (counting 12) 0x370C0000#32 12 6 = some ([-97, 62, -81, 69, -21, 56].map M) := by
  decide +kernel

/-- V-FP6-8. -/
theorem test_f6mulnr : result (counting 12) 0x390C0000#32 12 6 = some ([-1, 11, 1, 2, 3, 4].map M) := by
  decide +kernel

/-- V-FP6-9: the product of a and its inverse is one. -/
theorem test_f6inv :
    ((result (counting 6) 0x380C0000#32 12 6).bind fun b => result (place 6 b (counting 6)) 0x340C0006#32 12 6) =
      some [M 1, 0, 0, 0, 0, 0] := by decide +kernel

/-- V-FP6-10: the inverse of v, in both modes. -/
theorem test_f6inv_v :
    result (start [0, 0, M 1, 0, 0, 0]) 0x380C0000#32 12 6 =
      some [0, 0, 0, 0, M ((Config.p + 1) / 2), M ((Config.p - 1) / 2)] ∧
    result (start [0, 0, M 1, 0, 0, 0]) 0x380C0001#32 12 6 =
      some [0, 0, 0, 0, M ((Config.p + 1) / 2), M ((Config.p - 1) / 2)] := by decide +kernel

/-- V-FP12-1. -/
theorem test_f12add : result (counting 24) 0x40180C00#32 24 12 =
    some ([14, 16, 18, 20, 22, 24, 26, 28, 30, 32, 34, 36].map M) := by decide +kernel

/-- V-FP12-2. -/
theorem test_f12sub : result (counting 24) 0x41180C00#32 24 12 = some (List.replicate 12 (M 12)) := by decide +kernel

/-- V-FP12-3. -/
theorem test_f12mul : result (counting 24) 0x4418000C#32 24 12 =
    some ([-1650, 1405, -1282, 1475, -690, 1505, -1238, 1240, -810, 1290, -150, 1300].map M) := by decide +kernel

/-- V-FP12-10, V-FP12-11. -/
theorem test_f12mul_ranges :
    code (counting 24) 0x44F4000C#32 = some .none ∧ code (counting 24) 0x44F50000#32 = some .operandRange := by
  decide +kernel

/-- V-FP12-4. -/
theorem test_f12sqr : result (counting 24) 0x45180000#32 24 12 =
    some ([-678, 529, -574, 575, -342, 581, -446, 352, -330, 378, -78, 364].map M) := by decide +kernel

/-- V-FP12-5. -/
theorem test_f12conj : result (counting 24) 0x49180000#32 24 12 =
    some ([1, 2, 3, 4, 5, 6, -7, -8, -9, -10, -11, -12].map M) := by decide +kernel

/-- V-FP12-6. -/
theorem test_f12mul014 :
    result (place 12 [M 1, M 1, M 2, 0, 0, M 3] (counting 12)) 0x4618000C#32 24 12 =
      some ([-60, 22, -68, 8, -19, 40, -36, 58, 7, 38, 5, 52].map M) := by decide +kernel

/-- V-FP12-7, V-FP12-8: the inverse of w, in both modes. -/
theorem test_f12inv_w :
    result (start [0, 0, 0, 0, 0, 0, M 1, 0, 0, 0, 0, 0]) 0x480C0000#32 12 12 =
      some [0, 0, 0, 0, 0, 0, 0, 0, 0, 0, M ((Config.p + 1) / 2), M ((Config.p - 1) / 2)] ∧
    result (start [0, 0, 0, 0, 0, 0, M 1, 0, 0, 0, 0, 0]) 0x480C0001#32 12 12 =
      some [0, 0, 0, 0, 0, 0, 0, 0, 0, 0, M ((Config.p + 1) / 2), M ((Config.p - 1) / 2)] := by decide +kernel

/-- The example of R215: the product of a and its inverse is one. -/
theorem test_f12inv :
    ((result (counting 12) 0x480C0001#32 12 12).bind fun b => result (place 12 b (counting 12)) 0x4418000C#32 24 12) =
      some [M 1, 0, 0, 0, 0, 0, 0, 0, 0, 0, 0, 0] := by decide +kernel

/-! ## G2 -/

/-- The generator's words, from R135. -/
def G : List Nat := [Config.gx0, Config.gx1, Config.gy0, Config.gy1, M 1, 0]

/-- The canonical zero point's words, from R19. -/
def O : List Nat := [0, 0, M 1, 0, 0, 0]

/-- The words of 2G, from program P1. -/
def twoG : List Nat :=
  [0x0df8609d42969a334d8d60b3075d9489c105a4609b25ba74120ae146d6804e3afd6a011a9a9eba835caed892f5cf8719,
   0x091c50f1fd99d478476d1d992171f86cb5e4363e88a1e00b9f44417efd4831e946ab41b55de3008c0e3c964e6fd69082,
   0x0431a6a8d4fef5f86504a59c01d64cce77bd3da80b21321d39208efe09e29c8d5a8233ece6d7150b5660fecd110f22a9,
   0x00ce7c8d79d63421c4e8254ea56304526abf3c45a8d943061bfbb27fd3720da093826f30f0242b966ac2fdb8d9c83987,
   0x0107fb1cfd01b5ca0fa752ebe1de4b4577df6bd2dc1a92bfcfcd0ad95414c6b4b2f9f43ebc6d38b498e615f0c0929894,
   0x16578542c7bc37e5ce2eb0a1487995daf292b89d927b46750d5b58d477c9d74031544e145628c3b95b81f925bec960ba]

/-- The words of G + 2G, from V-G2-2. -/
def gPlusTwoG : List Nat :=
  [0x0cb7e2ff7d2419cbae02fee6c0909a58e1e122fbe08c0968d5d8cfbeba5618e1705faa02905555462aa72412d6d2cf2f,
   0x074c8d9ecda090a25fc7646773669028f25879480b8c33a6f07ab0aa29ed13bbdc27c7040530e524122a008b1c0ec0f9,
   0x04e5c0c0edbeebe44a4dff58e47ab395ff71bc3989d3fee269ff422bc6732eb43c0e06e353ebf0fab5074e9412e99125,
   0x0cc679f10e86636522735877d1f217381ba6f144774910e7d179bd3f61be27254d912666ecc6ef52d7c40f29d0d3535d,
   0x070fdc34d478b69cbb71a264188b8f325b0b8ad6d59e261b8809ad63b3eec885f456193a60e9502f141cb1cbf385a6ac,
   0x137818ae8bc195dc537cc686d84108e3cc40d265a5f0921cd5da7eadf681c9f62dc36af3a65b7280ccfa61788170b431]

/-- The words of 2G + G, from program P1. -/
def twoGPlusG : List Nat :=
  [0x0cb7e2ff7d2419cbae02fee6c0909a58e1e122fbe08c0968d5d8cfbeba5618e1705faa02905555462aa72412d6d2cf2f,
   0x074c8d9ecda090a25fc7646773669028f25879480b8c33a6f07ab0aa29ed13bbdc27c7040530e524122a008b1c0ec0f9,
   0x151b51294bc0fab600cda85d5ed0f94165058f4b69b113dcfd319075303dc76fe29df91b5d680f0504f7b16bed161986,
   0x0d3a97f92af9833528a84f3e7159959f48d05a407c3c01d795b7156194f2cefed11ad997c48d10ace23af0d62f2c574e,
   0x12f135b565072ffd8faa05522ac01da5096bc0ae1de6eca3df27253d42c22d9e2a55e6c4506aafd0a5e24e340c7a03ff,
   0x0688f93badbe50bdf79ee12f6b0aa3f39836791f4d9480a2915653f3002f2c2df0e8950b0af88d7eed049e877e8ef67a]

/-- V-G2-2 and P1: the generic sum, and the dispatch of P + P to the doubling. -/
theorem test_g2add :
    result (start (G ++ twoG)) 0x500C0006#32 12 6 = some gPlusTwoG ∧
    result (start G) 0x500C0000#32 12 6 = some twoG := by decide +kernel

/-- V-G2-5, V-G2-6, V-G2-7: zero operands and inverse operands. -/
theorem test_g2add_zero :
    result (start ([M 5, 0, M 7, 0, 0, 0] ++ G)) 0x500C0006#32 12 6 = some G ∧
    result (start ([M 5, 0, M 7, 0, 0, 0] ++ G)) 0x500C0600#32 12 6 = some G ∧
    result (start (G ++ [Config.gx0, Config.gx1, Config.p - Config.gy0, Config.p - Config.gy1, M 1, 0])) 0x500C0006#32 12 6 =
      some O := by decide +kernel

/-- P1 command 03 and V-G2-8. -/
theorem test_g2addm :
    result (start (G ++ twoG)) 0x51120600#32 18 6 = some twoGPlusG ∧
    result (start (O ++ G)) 0x510C0006#32 12 6 = some G := by decide +kernel

/-- V-G2-13. -/
theorem test_g2addm_range : code State.reset 0x510C00FD#32 = some .operandRange := by decide +kernel

/-- V-G2-1, V-G2-9, V-G2-11. -/
theorem test_g2dbl :
    result (start G) 0x52060000#32 6 6 = some twoG ∧ result (start O) 0x52060000#32 6 6 = some O ∧
    result (start [M 1, 0, 0, 0, M 1, 0]) 0x52060000#32 10 2 = some [0, 0] := by decide +kernel

/-- V-G2-12. -/
theorem test_g2dbl_noncanonical :
    code (place 3 [Config.p] (start G)) 0x52060000#32 = some .noncanonical := by decide +kernel

/-- V-G2-4, V-G2-10. -/
theorem test_g2neg :
    result (start G) 0x530C0000#32 12 6 =
      some [Config.gx0, Config.gx1, Config.p - Config.gy0, Config.p - Config.gy1, M 1, 0] ∧
    result (start O) 0x53060000#32 6 6 = some [0, 0, M (-1), 0, 0, 0] := by decide +kernel

/-- V-G2-3 and the corner case zero − P of R235. -/
theorem test_g2sub :
    result (start G) 0x540C0000#32 12 6 = some O ∧
    result (start (O ++ G)) 0x540C0006#32 12 6 =
      some [Config.gx0, Config.gx1, Config.p - Config.gy0, Config.p - Config.gy1, M 1, 0] := by decide +kernel

/-- V-SM-1, V-SM-2, V-SM-3 and the subgroup order on the generator (P3, command 01). -/
theorem test_g2smul :
    result (scalar0 0 (start G)) 0x58060000#32 6 6 = some O ∧ result (scalar0 1 (start G)) 0x58060000#32 6 6 = some G ∧
    result (scalar0 2 (start G)) 0x58060000#32 6 6 = some twoG ∧
    result (scalar0 Config.r (start G)) 0x58060000#32 6 6 = some O := by decide +kernel

/-- V-SM-5: 5G by G2SMUL. -/
theorem test_g2smul_5 : result (scalar0 5 (start G)) 0x58060000#32 6 6 = some
    [0x09a60804ad7f70f7d8e2cac2b21cb0ec00c7961bd2094f759190e21a64fe12c581ac2ef995360979c65bd09d8931c4ff,
     0x0f9aa9c698f53d3f6fa0e807b008c815aa9183c3629087a6eb555020fff018ca0923241d36a472177f8637afa0299e22,
     0x11129735d543f36f90590110044abc84ba36bcd87ce8364a45a16b23e149af9ee62672c5d70c7643270ab6a8476f2ebe,
     0x09956df3c36962ff924867240a741904ae7bd0c0943acd7872a32fd88850e2540e5149b65c401c3510d2d22533ecb898,
     0x01f72a9b16a0fed75a691f630ba6d7972652afcfe879a5c9abc5417bede3a2c832afd1039f19686d046a8e57a2a0da88,
     0x0da86aebbffcc100329ad7e987f9308f07359481a22090d849028a824cefcf543e1c58c9f5e0fde6bc6123d553f9564d] := by
  decide +kernel

/-- V-SM-1, V-SM-2 and P3, command 02. -/
theorem test_g2smulw :
    result (scalar0 0 (start G)) 0x59060000#32 6 6 = some O ∧ result (scalar0 1 (start G)) 0x59060000#32 6 6 = some G ∧
    result (scalar0 Config.r (start G)) 0x59060000#32 6 6 = some O := by decide +kernel

/-- V-SM-5: 5G by G2SMULW. -/
theorem test_g2smulw_5 : result (scalar0 5 (start G)) 0x59060000#32 6 6 = some
    [0x10c27189fd6f2a350b4105e17ebbf5e62728b721ffcb408e402ba84cea7f3da798341fbf74f7799a9a997b1a750dba32,
     0x08f69c249a441546a6a8cce46dad8d3ce732719fdf55ce1d49c9aeea6ae04c70e2bc51cca0fddfb1245f8067d0ba0ee3,
     0x05f07c65479c2e911ef4043093a28cbb1c3263e0db37d6144d4ec1ad76d3a2897b6c4fcf71ad86368ea83fac3d70fde9,
     0x0d7bb59e37efb349a55d679bdcc41f52d9048028489b0b16d465222d7f51cab89fea6b08276f6f7648659d9ede6346dd,
     0x04bb345096a622bff10b9f21d81c197f1b4834b411a122b392599270c8a8c901515819a6457c0a12c4acb660ee451eb5,
     0x01cdfb05f0d56a65469fb0835b3adc39858c2a02e1440b2f25111f055892dcfe963ddea3c220883c66b862a966e5d075] := by
  decide +kernel

/-- P3, commands 03 and 04: the first words of (r − 1)·G by the two multipliers. -/
theorem test_multipliers_at_r_minus_1 :
    result (scalar0 (Config.r - 1) (start G)) 0x58060000#32 6 1 = some
      [0x1715277b0b4fb91cbd21629888d75d3d2202896699410cd084e38952e000265291182df01140b51469abe6c5c025506b] ∧
    result (scalar0 (Config.r - 1) (start G)) 0x59060000#32 6 1 = some
      [0x00ea1882cb474c38449998f462ee6da0bc0011211a0beea0e129a97c33eac5132f73f6192788d5833426c0ba6de94c0f] := by
  decide +kernel

/-- The wNAF digits of R262. -/
theorem test_naf :
    naf 5 = [5] ∧ naf 31 = [31] ∧ naf 33 = [-31, 0, 0, 0, 0, 0, 1] ∧ naf 63 = [-1, 0, 0, 0, 0, 0, 1] ∧
    naf 100 = [0, 0, 25] ∧ (naf (2 ^ 1024 - 1)).length = 1025 := by decide +kernel

/-- The datapath forms of R145 and R193 on one pair of operands. -/
theorem test_datapaths :
    cios (M 2) (M 3) = M 6 ∧
    (f6mulKaratsuba ((counting 12).rdFp6 0) ((counting 12).rdFp6 6)).words =
      (([-223, 176, -165, 189, -39, 182] : List Int).map fun x => fw (M x)) := by decide +kernel

/-! ## Errors (P4) -/

/-- P4a: the error is recorded at its address. -/
theorem test_p4a :
    status { start [M 1, M 2] with pc := 2 } 0x2002FF00#32 = some (0x00000302#32, 2, 2, 0x2002FF00#32) := by
  decide +kernel

/-- P4b. -/
theorem test_p4b :
    (after { place 5 [Config.p, 7] State.reset with pc := 0x20 } 0x12060500#32).map
      (fun t => (t.errcode, t.errpc, t.pc, t.errcmd, t.readW 6)) =
    some (.noncanonical, 0x20, 0x20, 0x12060500#32, 7#384) := by decide +kernel

/-- P4c, its last step: the NOP at 0xFF completes and the run ends with PC_OVERFLOW. -/
theorem test_p4c :
    status { State.reset with pc := 0xFF } 0x00000000#32 = some (0x00000502#32, 0xFF, 0xFF, 0x00000000#32) := by
  decide +kernel

/-- R306: the command at 255 keeps its writes. -/
theorem test_overflow_keeps_writes :
    (after { State.reset with pc := 0xFF } 0x03070001#32).map (fun t => (t.errcode, (t.readW 7).toNat)) =
      some (.pcOverflow, M 1) := by decide +kernel

/-- P4d: the priority of the checks. -/
theorem test_p4d :
    code State.reset 0x12000001#32 = some .reservedField ∧ code State.reset 0x04000000#32 = some .illegalOpcode ∧
    code State.reset 0x22FF0001#32 = some .reservedField ∧ code State.reset 0x22FF0000#32 = some .operandRange ∧
    code (start [Config.p]) 0x2002FF00#32 = some .operandRange := by decide +kernel

/-! ## The host window, one transaction at a time -/

/-- The state after one scheduled action. -/
def act (s : State) (a : Action) : Option State :=
  match step { s with script := [a] } with
  | .next t => some t
  | _ => none

/-- P6, step 1, and the refusal of a reserved offset. -/
theorem test_read_id :
    (act State.reset (.read 4 0x0000)).map (·.rdata) = some (some 0xB1512381#32) ∧
    (act State.reset (.read 4 0x0004)).map (·.rdata) = some (some 0x00010000#32) ∧
    (act State.reset (.read 4 0x0020)).map (fun t => (t.rdata, t.accerr)) = some (some 0, true) := by decide +kernel

/-- P6, step 2, read back. -/
theorem test_write_command :
    (act State.reset (.write 4 0x1000 0x18000000#32)).map (fun t => t.cmd.read 0) = some (some 0x18000000#32) ∧
    (act State.reset (.write 4 0x13FC 0x01000000#32)).map (fun t => t.cmd.read 255) = some (some 0x01000000#32) := by
  decide +kernel

/-- P6, steps 7 and 8: the last bus word of W[0] and of W[1] is the least significant one. -/
theorem test_write_w :
    (act State.reset (.write 4 0x402C 0x00000002#32)).map (fun t => t.readW 0) = some 2#384 ∧
    (act State.reset (.write 4 0x405C 0x00000003#32)).map (fun t => t.readW 1) = some 3#384 ∧
    (act State.reset (.write 4 0x4000 0x80000000#32)).map (fun t => t.readW 0) = some (BitVec.twoPow 384 383) := by
  decide +kernel

/-- P6, step 9: START with IRQ_EN = 1. -/
theorem test_start :
    (act { State.reset with entry := 7, done := true } (.write 4 0x000C 5#32)).map
      (fun t => (t.statusWord, t.pc, t.irqEn, t.irq)) = some (1#32, 7, true, false) := by decide +kernel

/-- P6, step 11: W[3] = 6 read back, first and last bus word. -/
theorem test_read_w :
    (act (place 3 [6] State.reset) (.read 4 0x4090)).map (·.rdata) = some (some 0) ∧
    (act (place 3 [6] State.reset) (.read 4 0x40BC)).map (·.rdata) = some (some 6) := by decide +kernel

/-- P6, step 13: DONE cleared, the irq line goes low. -/
theorem test_clear_done :
    (act { State.reset with done := true, irqEn := true } (.write 4 0x0008 2#32)).map (fun t => (t.statusWord, t.irq)) =
      some (0#32, false) := by decide +kernel

/-- P6, the second variant: a read of W while busy returns 0 and sets ACCERR. -/
theorem test_read_w_while_busy :
    (act { place 3 [6] State.reset with busy := true } (.read 4 0x40BC)).map (fun t => (t.rdata, t.statusWord)) =
      some (some 0, 5#32) := by decide +kernel

/-- R307: an ABORT records pc and the word there; START in the same write is refused (R43). -/
theorem test_abort :
    (act { (State.reset.withFetchWord 32 0x01000000) with pc := 0 } (.write 4 0x000C 3#32)).map
      (fun t => (t.statusWord, t.errpc, t.errcmd)) = some (0x00000606#32, 0, 0x01000000#32) := by decide +kernel

/-- R341: reset during a run. -/
theorem test_reset_while_busy :
    (act (State.reset.withFetchWord 32 0) .reset).map (fun t => (t.statusWord, t.fetch)) = some (0#32, none) := by
  decide +kernel

/-- R343: P6, the first variant, and the same command when its source word has been written. -/
theorem test_uninit :
    stepUninit (State.reset.withFetchWord 32 0x18010100) = some (.w 1) ∧
    stepUninit ((start [0, 3]).withFetchWord 32 0x18010100) = none ∧
    stepUninit ((start [M 1]).withFetchWord 32 0x17020003) = some (.s 3) := by decide +kernel

/-- R343: a W word is not written until all 12 of its bus words are. -/
theorem test_partly_written :
    ((act State.reset (.write 4 0x402C 2#32)).map fun t => (t.wWritten 0, stepUninit { t with script := [.read 4 0x402C] })) =
      some (false, some (.w 0)) := by decide +kernel

/-! ## Witnesses: concrete states and operands that meet the hypotheses of the statements, clause by clause

In a witness of a command rule the three parts are: operands outside the file; operands at the edge of the file with a
source word that is not canonical; and operands at the edge of the file with canonical sources, below address 255.  A
command whose operands are single words is always in range (R302) and has no first part. -/

/-- Canonical words at W0..W23, and everything else canonical. -/
def good : State := counting 24

/-- The same with the last canonical word p − 1 at W0 and the first one that is not, p, at W30. -/
def edge : State := place 30 [Config.p] (place 0 [Config.p - 1] good)

/-- The parts of a witness for a command with operand sizes a, b and c. -/
def Wit3 (a b c : Nat) : Prop :=
  ¬(FitsW (BitVec.ofNat 8 (257 - a)) a ∧ FitsW 0 b ∧ FitsW 2 c) ∧
  ((FitsW (BitVec.ofNat 8 (256 - a)) a ∧ FitsW 0 b ∧ FitsW 30 c) ∧ ¬(CanonW edge 0 b ∧ CanonW edge 30 c)) ∧
  ((FitsW (BitVec.ofNat 8 (256 - a)) a ∧ FitsW 0 b ∧ FitsW (BitVec.ofNat 8 (256 - c)) c) ∧
    (CanonW edge 0 b ∧ CanonW edge (BitVec.ofNat 8 (256 - c)) c) ∧ edge.pc ≠ 255)

/-- The parts of a witness for a command with operand sizes a and b, and a non-zero reserved field. -/
def Wit2 (a b : Nat) : Prop :=
  ¬(FitsW (BitVec.ofNat 8 (257 - a)) a ∧ FitsW 0 b) ∧
  ((FitsW (BitVec.ofNat 8 (256 - a)) a ∧ FitsW 30 b) ∧ ¬CanonW edge 30 b) ∧
  ((FitsW (BitVec.ofNat 8 (256 - a)) a ∧ FitsW 0 b) ∧ CanonW edge 0 b ∧ edge.pc ≠ 255) ∧ (1 : BitVec 8) ≠ 0

/-- The last two parts for single words. -/
def Wit1 : Prop :=
  (edge.readW 0).toNat < Config.p ∧ ¬(edge.readW 30).toNat < Config.p ∧ edge.pc ≠ 255 ∧ (1 : BitVec 8) ≠ 0

/-- Well-formed terms at the ends of MOV's range. -/
theorem wit_DecodeOfEncodeIsTheCommand :
    (Instr.mov 255 255 1).wellFormed = true ∧ (Instr.mov 0 0 12).wellFormed = true ∧ Instr.nop.wellFormed = true := by
  decide +kernel

/-- One word for each of the three answers, at the ends of the ranges. -/
theorem wit_DecodeFollowsTheOpcodeTable :
    decode 0x0200000C#32 = .ok (.mov 0 0 12) ∧ decode 0x0200000D#32 = .error .reservedField ∧
    decode 0x03000006#32 = .error .reservedField ∧ decode 0x5A000000#32 = .error .illegalOpcode := by
  decide +kernel

/-- A HALT about to run, with and without a schedule. -/
theorem wit_StepExecutesTheFetchedCommand :
    let s := State.reset.withFetchWord 32 0x01000000
    (s.busy = true ∧ s.fetch = some 0x01000000#32 ∧ decode 0x01000000#32 = .ok .halt ∧ s.script = []) ∧
    (let u := { s with script := [.core, .reset] }
     u.busy = true ∧ u.fetch = some 0x01000000#32 ∧ u.script = [.core, .reset]) := by
  decide +kernel

/-- A word of each kind about to run. -/
theorem wit_UndecodableWordEndsTheRun :
    let s := State.reset.withFetchWord 32 0x04000000
    let u := State.reset.withFetchWord 32 0x01000001
    (s.busy = true ∧ s.script = [] ∧ s.fetch = some 0x04000000#32 ∧ decode 0x04000000#32 = .error .illegalOpcode) ∧
    (u.busy = true ∧ u.script = [] ∧ u.fetch = some 0x01000001#32 ∧ decode 0x01000001#32 = .error .reservedField) := by
  decide +kernel

/-- The state after reset, and a run over unwritten command memory. -/
theorem wit_IdleBlockWaitsAndUnwrittenFetchFaults :
    State.reset.script = [] ∧ State.reset.busy = false ∧
    { State.reset with busy := true }.busy = true ∧ { State.reset with busy := true }.fetch = none := by
  decide +kernel

/-- One command for each clause, at the edge of the file and of [0, p). -/
theorem wit_CheckReportsTheFirstFailure :
    (Instr.mov 0 0 13).wellFormed = false ∧
    ((Instr.f2neg 255 0).wellFormed = true ∧ ∃ o ∈ operandsOf (.f2neg 255 0), 256 < o.1.toNat + o.2) ∧
    ((∀ o ∈ operandsOf (.f2neg 254 30), o.1.toNat + o.2 ≤ 256) ∧
      ∃ o ∈ sourcesOf (.f2neg 254 30), ∃ j, j < o.2 ∧ Config.p ≤ (edge.readW (o.1.toNat + j)).toNat) ∧
    ((∀ o ∈ operandsOf (.f2neg 254 0), o.1.toNat + o.2 ≤ 256) ∧
      ∀ o ∈ sourcesOf (.f2neg 254 0), ∀ j, j < o.2 → (edge.readW (o.1.toNat + j)).toNat < Config.p) := by
  decide +kernel

/-- A failing check of each kind. -/
theorem wit_ErrorsArePreciseAndRecorded :
    check (.f2neg 255 0) edge = some .operandRange ∧ check (.f2neg 254 30) edge = some .noncanonical ∧
    check (.mov 0 0 13) edge = some .reservedField := by
  decide +kernel

/-- A command that completes at address 255. -/
theorem wit_OverflowAfterTheLastAddress :
    { edge with pc := 255 }.pc = 255 ∧ Instr.fdbl 255 0 ≠ .halt ∧ check (.fdbl 255 0) { edge with pc := 255 } = none := by
  decide +kernel

/-- A command below address 255 and one that fails, with words inside and outside the destination. -/
theorem wit_CommandsChangeNothingElse :
    (∃ t, exec (.fdbl 255 0) edge = .next t) ∧ (∃ t, exec (.fdbl 255 30) edge = .next t) ∧
    destOf (.fdbl 255 0) = some (255, 1) ∧ 254 < (255 : WIdx).toNat := by
  refine ⟨Laws.exec_next _ _, Laws.exec_next _ _, ?_⟩
  decide +kernel

/-- The same two commands. -/
theorem wit_CommandsAdvanceOrEndTheRun :
    (∃ t, exec (.fdbl 255 0) edge = .next t) ∧ edge.pc ≠ 255 ∧ ∃ t, exec .halt edge = .next t := by
  refine ⟨Laws.exec_next _ _, ?_, Laws.exec_next _ _⟩
  decide +kernel

/-- A command with a destination at the end of the file that completes. -/
theorem wit_CompletedCommandsWriteCanonicalWords :
    destOf (.ldc 250 .g2gen) = some (250, 6) ∧ check (.ldc 250 .g2gen) edge = none ∧
    ∃ t, exec (.ldc 250 .g2gen) edge = .next t := by
  exact ⟨by decide +kernel, by decide +kernel, Laws.exec_next _ _⟩

/-- Both addresses, and words with the two opcodes that are not the commands. -/
theorem wit_NopAndHaltRules :
    edge.pc ≠ 255 ∧ { edge with pc := 255 }.pc = 255 ∧
    (0x00FFFFFF#32).toNat / 2 ^ 24 = 0x00 ∧ (0x01000001#32).toNat / 2 ^ 24 = 0x01 := by
  decide +kernel

/-- Counts at and beyond the ends of 1 to 12, and ranges at and beyond the end of the file. -/
theorem wit_MovCopiesWords :
    ¬(1 ≤ (0 : BitVec 8).toNat) ∧ ¬((13 : BitVec 8).toNat ≤ 12) ∧ ¬(FitsW 245 12 ∧ FitsW 244 12) ∧
    (FitsW 244 12 ∧ FitsW 244 12) ∧ (FitsW 255 1 ∧ FitsW 255 1) ∧ edge.pc ≠ 255 := by
  unfold FitsW
  decide +kernel

/-- A selector and a field that are refused, and destinations at and beyond the end of the file. -/
theorem wit_LdcLoadsConstants :
    5 < (6 : BitVec 8).toNat ∧ (1 : BitVec 8) ≠ 0 ∧ ¬FitsW 251 6 ∧ FitsW 250 6 ∧ ¬FitsW 255 2 ∧ FitsW 254 2 ∧ edge.pc ≠ 255 := by
  unfold FitsW
  decide +kernel

/-- A source word p − 1 and a source word p. -/
theorem wit_FpAdditionRules :
    Wit1 := by
  unfold Wit1
  decide +kernel

/-- A source word p − 1 and a source word p. -/
theorem wit_FpMontgomeryProductRules :
    Wit1 := by
  unfold Wit1
  decide +kernel

/-- A source word p − 1 and a source word p. -/
theorem wit_MontgomeryConversionRules :
    Wit1 := by
  unfold Wit1
  decide +kernel

/-- A source word p − 1, a source word p and a refused scalar index. -/
theorem wit_FexpRule :
    Wit1 ∧ 3 < (4 : BitVec 8).toNat := by
  unfold Wit1
  decide +kernel

/-- A zero and a non-zero source word, one that is not canonical and a refused mode. -/
theorem wit_FinvInvertsInBothModes :
    Wit1 ∧ 1 < (2 : BitVec 8).toNat ∧ (good.readW 40).toNat = 0 ∧ (good.readW 0).toNat ≠ 0 := by
  unfold Wit1
  decide +kernel

/-- The ends of [0, p). -/
theorem wit_CiosLoopIsTheMontgomeryProduct :
    Config.p - 1 < Config.p ∧ 0 < Config.p := by
  decide +kernel

/-- Three and two Fp2 operands. -/
theorem wit_Fp2LinearRules :
    Wit3 2 2 2 ∧ Wit2 2 2 := by
  unfold Wit3 Wit2 FitsW CanonW
  decide +kernel

/-- Three and two Fp2 operands. -/
theorem wit_Fp2ProductRules :
    Wit3 2 2 2 ∧ Wit2 2 2 := by
  unfold Wit3 Wit2 FitsW CanonW
  decide +kernel

/-- A zero and a non-zero Fp2 operand, and a refused mode. -/
theorem wit_F2invInvertsInBothModes :
    Wit2 2 2 ∧ good.rdFp2 40 = f2zero ∧ good.rdFp2 0 ≠ f2zero ∧ 1 < (2 : BitVec 8).toNat := by
  unfold Wit2 FitsW CanonW
  decide +kernel

/-- Three and two Fp6 operands. -/
theorem wit_Fp6LinearRules :
    Wit3 6 6 6 ∧ Wit2 6 6 := by
  unfold Wit3 Wit2 FitsW CanonW
  decide +kernel

/-- Three and two Fp6 operands, and two canonical values. -/
theorem wit_Fp6ProductRules :
    Wit3 6 6 6 ∧ Wit2 6 6 ∧ Canon6 (edge.rdFp6 0) ∧ Canon6 (good.rdFp6 6) := by
  unfold Wit3 Wit2 FitsW CanonW Canon6 Canon2
  decide +kernel

/-- Operands of 6, 6 and 4 words, and of 6, 6 and 2. -/
theorem wit_SparseFp6ProductsEqualDense :
    Wit3 6 6 4 ∧ Wit3 6 6 2 := by
  unfold Wit3 FitsW CanonW
  decide +kernel

/-- Fp6 and Fp12 operands, and a refused mode. -/
theorem wit_TowerInversionRules :
    Wit2 6 6 ∧ Wit2 12 12 ∧ 1 < (2 : BitVec 8).toNat := by
  unfold Wit2 FitsW CanonW
  decide +kernel

/-- A canonical value that is not zero. -/
theorem wit_F6invInverts :
    Canon6 (edge.rdFp6 0) ∧ edge.rdFp6 0 ≠ f6zero := by
  unfold Canon6 Canon2
  decide +kernel

/-- Three and two Fp12 operands. -/
theorem wit_Fp12LinearRules :
    Wit3 12 12 12 ∧ Wit2 12 12 := by
  unfold Wit3 Wit2 FitsW CanonW
  decide +kernel

/-- Three and two Fp12 operands. -/
theorem wit_Fp12ProductRules :
    Wit3 12 12 12 ∧ Wit2 12 12 := by
  unfold Wit3 Wit2 FitsW CanonW
  decide +kernel

/-- Operands of 12, 12 and 6 words. -/
theorem wit_LineProductEqualsDense :
    Wit3 12 12 6 := by
  unfold Wit3 FitsW CanonW
  decide +kernel

/-- A canonical value that is not zero. -/
theorem wit_F12invInverts :
    Canon12 (edge.rdFp12 0) ∧ edge.rdFp12 0 ≠ ⟨f6zero, f6zero⟩ := by
  unfold Canon12 Canon6 Canon2
  decide +kernel

/-- The zero point, the generator with itself, with its negation and with its double: one pair for each clause. -/
theorem wit_G2addDispatch :
    Wit3 6 6 6 ∧ CanonG2 g2gen ∧ CanonG2 g2zero ∧ CanonG2 (pointDbl g2gen) ∧ CanonG2 (pointNeg g2gen) ∧
    g2zero.Z = f2zero ∧ g2gen.Z ≠ f2zero ∧ (pointDbl g2gen).Z ≠ f2zero ∧ (pointNeg g2gen).Z ≠ f2zero ∧
    f2mul g2gen.Y (f2mul g2gen.Z (f2sqr g2gen.Z)) ≠ f2mul (pointNeg g2gen).Y (f2mul g2gen.Z (f2sqr g2gen.Z)) ∧
    f2mul g2gen.X (f2sqr (pointDbl g2gen).Z) ≠ f2mul (pointDbl g2gen).X (f2sqr g2gen.Z) := by
  unfold Wit3 FitsW CanonW CanonG2 Canon2
  decide +kernel

/-- Operands of 6, 6 and 4 words. -/
theorem wit_MixedAdditionEqualsFullAddition :
    Wit3 6 6 4 := by
  unfold Wit3 FitsW CanonW
  decide +kernel

/-- Point operands; a zero point, a point with Y = 0 and the generator. -/
theorem wit_G2DoubleNegateSubtractRules :
    Wit3 6 6 6 ∧ Wit2 6 6 ∧ CanonG2 g2zero ∧ CanonG2 g2gen ∧ CanonG2 ⟨f2one, f2zero, f2one⟩ ∧
    g2zero.Z = f2zero ∧ g2gen.Z ≠ f2zero := by
  unfold Wit3 Wit2 FitsW CanonW CanonG2 Canon2
  decide +kernel

/-- The double of the generator, the generator and the zero point. -/
theorem wit_PointCommandsStayOnTheCurve :
    CanonG2 (pointDbl g2gen) ∧ CanonG2 g2gen ∧ OnCurve (pointDbl g2gen) ∧ OnCurve g2gen ∧ OnCurve g2zero ∧ g2gen.Z = f2one := by
  unfold CanonG2 Canon2 OnCurve
  decide +kernel

/-- The generator, the zero point and the largest scalar. -/
theorem wit_ScalarMultiplesStayOnTheCurve :
    CanonG2 g2gen ∧ OnCurve g2gen ∧ CanonG2 g2zero ∧ OnCurve g2zero ∧ 2 ^ 1024 - 1 < 2 ^ 1024 := by
  unfold CanonG2 Canon2 OnCurve
  decide +kernel

/-- The same. -/
theorem wit_MultipliersAgreeOnTheCurve :
    CanonG2 g2gen ∧ OnCurve g2gen ∧ CanonG2 g2zero ∧ OnCurve g2zero ∧ 2 ^ 1024 - 1 < 2 ^ 1024 := by
  unfold CanonG2 Canon2 OnCurve
  decide +kernel

/-- Point operands, a zero point and a refused scalar index. -/
theorem wit_G2smulIsDoubleAndAdd :
    Wit2 6 6 ∧ g2zero.Z = f2zero ∧ 3 < (4 : BitVec 8).toNat := by
  unfold Wit2 FitsW CanonW
  decide +kernel

/-- The largest scalar, and two non-zero digits at the least distance. -/
theorem wit_WnafRecodingRepresentsTheScalar :
    2 ^ 1024 - 1 < 2 ^ 1024 ∧ (naf 33).getD 0 0 ≠ 0 ∧ (naf 33).getD 6 0 ≠ 0 := by
  decide +kernel

/-- Point operands and a refused scalar index. -/
theorem wit_G2smulwIsTheWindowedLoop :
    Wit2 6 6 ∧ 3 < (4 : BitVec 8).toNat := by
  unfold Wit2 FitsW CanonW
  decide +kernel

/-- An idle block and writes with and without START. -/
theorem wit_CtrlWriteWhileIdle :
    { State.reset with script := [.write 4 0x000C 5] }.script = [.write 4 0x000C 5] ∧ State.reset.busy = false ∧
    (5#32).getLsbD 0 = true ∧ (4#32).getLsbD 0 = false := by
  decide +kernel

/-- A run in progress, writes with and without ABORT, and an entry that has not been written. -/
theorem wit_CtrlWriteWhileBusy :
    let s := { State.reset.withFetchWord 32 0x01000000 with script := [.write 4 0x000C 3] }
    s.busy = true ∧ s.fetch = some 0x01000000#32 ∧ (3#32).getLsbD 1 = true ∧ (1#32).getLsbD 1 = false ∧
    { s with pc := 255 }.fetch = none := by
  decide +kernel

/-- A run at the last address, whose entry is written. -/
theorem wit_EveryRunEndsWithin256Steps :
    let s := { State.reset with pc := 255 }.withFetchWord 32 0
    s.script = [] ∧ s.busy = true ∧ ∀ a, s.pc.toNat ≤ a → a < 256 → s.cmd.read a ≠ none := by
  refine ⟨by decide +kernel, by decide +kernel, fun a h1 h2 => ?_⟩
  obtain rfl : a = 255 := Nat.le_antisymm (Nat.le_of_lt_succ h2) h1
  decide +kernel

/-- The step of a HALT. -/
theorem wit_RunEndsRaiseDoneAndIrq :
    let s := State.reset.withFetchWord 32 0x01000000
    (∀ rest, s.script ≠ .reset :: rest) ∧ s.busy = true ∧ (after State.reset 0x01000000#32).map (·.busy) = some false := by
  refine ⟨fun rest h => ?_, ?_, ?_⟩
  · exact absurd h (by simp [State.withFetchWord])
  · decide +kernel
  · decide +kernel

/-- A reset with something after it. -/
theorem wit_ResetRestoresTheControlState :
    { edge with script := [.reset, .core] }.script = [.reset, .core] := by
  decide +kernel

/-- Reads of the last register and, idle, of ENTRY. -/
theorem wit_RegisterReads :
    { State.reset with script := [.read 4 0x001C] }.script = [.read 4 0x001C] ∧
    { State.reset with script := [.read 4 0x0010] }.busy = false := by
  decide +kernel

/-- Writes to STATUS, to ENTRY while idle and to a read-only register. -/
theorem wit_RegisterWrites :
    { State.reset with script := [.write 4 0x0008 7] }.script = [.write 4 0x0008 7] ∧
    { State.reset with script := [.write 4 0x0010 0x1FF] }.busy = false ∧ (0x001C : Offset) ∈ [(0x0000 : Offset), 0x0004, 0x0014, 0x0018, 0x001C] := by
  decide +kernel

/-- A busy block and offsets at the ends of the locked ranges and of the open registers. -/
theorem wit_BusyLockout :
    { edge with busy := true, script := [.read 4 0x81FC] }.busy = true ∧ (0x81FC : Offset).toNat % 4 = 0 ∧
    0x8000 ≤ (0x81FC : Offset).toNat ∧ (0x81FC : Offset).toNat ≤ 0x81FF ∧ (0x1000 : Offset).toNat % 4 = 0 ∧
    (0x6FFC : Offset).toNat ≤ 0x6FFF ∧ (0x001C : Offset).toNat ≤ 0x001C ∧ (0x001C : Offset).toNat ≠ 0x0010 := by
  decide +kernel

/-- A width, an offset and the ends of each reserved range. -/
theorem wit_RefusedAccesses :
    (2 : Nat) ≠ 4 ∧ (0x0002 : Offset).toNat % 4 ≠ 0 ∧ 0x0020 ≤ (0x0020 : Offset).toNat ∧ (0x0FFC : Offset).toNat ≤ 0x0FFF ∧
    0x1400 ≤ (0x1400 : Offset).toNat ∧ (0x3FFC : Offset).toNat ≤ 0x3FFF ∧ 0x7000 ≤ (0x7000 : Offset).toNat ∧
    (0x7FFC : Offset).toNat ≤ 0x7FFF ∧ 0x8200 ≤ (0x8200 : Offset).toNat ∧ 0x8200 ≤ (0xFFFC : Offset).toNat := by
  decide +kernel

/-- A step of a run, and a write that clears ACCERR. -/
theorem wit_StorageLockedWhileBusyAndAccerrSticky :
    let s := { State.reset with accerr := true, script := [.write 4 0x0008 4] }
    (act s (.write 4 0x0008 4)).map (·.accerr) = some false ∧ (4#32).getLsbD 2 = true ∧
    (after edge 0x13FF0000#32).map (·.busy) = some true := by
  decide +kernel

/-- The last bus word of the last W word. -/
theorem wit_WordFileOnTheBus :
    edge.busy = false ∧ 255 < 256 ∧ 11 < 12 ∧
    { edge with script := [.read 4 (BitVec.ofNat 16 (0x4000 + 48 * 255 + 4 * 11))] }.script = [.read 4 0x6FFC] := by
  decide +kernel

/-- The last bus word of the last scalar register, and the last command entry, written and not. -/
theorem wit_ScalarsAndCommandsOnTheBus :
    edge.busy = false ∧ 31 < 32 ∧ BitVec.ofNat 16 (0x8000 + 128 * (3 : SIdx).toNat + 4 * 31) = (0x81FC : Offset) ∧
    BitVec.ofNat 16 (0x1000 + 4 * 255) = (0x13FC : Offset) ∧
    (Memory.write [] 255 0x01000000#32).read 255 = some 0x01000000#32 ∧ edge.cmd.read 255 = none := by
  decide +kernel

/-- A read that is served and one that is refused. -/
theorem wit_ReadsHaveNoOtherSideEffect :
    (act edge (.read 4 0x0008)).map (·.accerr) = some false ∧ (act edge (.read 2 0x0008)).map (·.accerr) = some true := by
  decide +kernel

/-- A state with the invariant, and a step. -/
theorem wit_EveryStepKeepsTheInvariant :
    Inv State.reset ∧ (after edge 0x13FF0000#32).map (·.busy) = some true := by
  unfold Inv StatusLegal
  decide +kernel

/-- Two states that differ in an unwritten word alone. -/
theorem wit_UnwrittenContentsDoNotMatter :
    AgreeOnWritten State.reset { State.reset with w := State.reset.w.set 7 5#384 } ∧
    State.reset ≠ { State.reset with w := State.reset.w.set 7 5#384 } := by
  refine ⟨⟨rfl, fun i j hi hj h => ?_, fun k j hk hj h => rfl⟩, by decide +kernel⟩
  simp [State.reset, hi] at h

/-- A step that both take, and each of the kinds of read before a write. -/
theorem wit_CheckedStepRefinesStep :
    stepUninit (State.reset.withFetchWord 32 0) = none ∧ stepUninit { State.reset with busy := true } = some (.cmd 0) ∧
    stepUninit (State.reset.withFetchWord 32 0x18010100) = some (.w 1) ∧
    stepUninit ((start [M 1]).withFetchWord 32 0x17020003) = some (.s 3) ∧
    stepUninit { State.reset with script := [.read 4 0x402C] } = some (.w 0) := by
  decide +kernel

/-- TOMONT w1, w1 would read W[1], which has not been written. -/
theorem wit_CheckedStepRefinesStep_unwritten :
    WouldRead (State.reset.withFetchWord 32 0x18010100) (.w 1) ∧
    ¬Written (State.reset.withFetchWord 32 0x18010100) (.w 1) := by
  refine ⟨Or.inl ⟨Or.inl rfl, rfl, 0x18010100#32, .tomont 1 1, by decide +kernel, by decide +kernel,
    Or.inl ⟨1, rfl, by decide +kernel, [], [], by decide +kernel, by simp⟩⟩, ?_⟩
  unfold Written
  decide +kernel

/-- Where W and S have all been written, everything the next step would read has been, whatever it is: here the same
TOMONT, which does read a word. -/
theorem wit_CheckedStepRefinesStep_written :
    let s := { (start [0, 3]).withFetchWord 32 0x18010100 with
      wInit := Vector.replicate 256 (BitVec.allOnes 12), sInit := Vector.replicate 4 (BitVec.allOnes 32) }
    ∀ l, WouldRead s l → Written s l := by
  intro s l h
  have hw : ∀ j, j < 256 → s.wWritten j = true := by decide +kernel
  have hk : ∀ k, k < 4 → s.sWritten k = true := by decide +kernel
  rcases h with ⟨-, -, w, i, hf, hd, ⟨j, rfl, hr, before, after, hj, -⟩ | ⟨k, rfl, -⟩⟩ | ⟨_, _, _, _, _, ⟨i, j, rfl, hl⟩ | ⟨k, j, rfl, hl⟩⟩
  · have hmem : j ∈ sourceIndices i := by simp [hj]
    obtain ⟨o, ho, h1, h2⟩ := (Laws.mem_sourceIndices i j).1 hmem
    have := (Laws.rangesOk_iff i).1 hr o (List.mem_append_right _ ho)
    exact hw j (by omega)
  · exact hk k.toNat k.isLt
  · exact hw i (Laws.locate_w_lt hl).1
  · exact hk k (Laws.locate_s_lt hl).1

end Sys2Proof.Tests
end

section
/-! SUPPORT. What a transaction and a command can do, said once: the effects of a bus write, the equations of a write to
CTRL (spec/10_state.md R43), and the inversion of `exec`, of a core step and of `step`. -/

namespace Sys2Proof.Proofs

open Sys2Proof Sys2Proof.Machine Sys2Proof.Laws

/-! ## A write to CTRL (R43, R131, R307, R312) -/

theorem writeCtrl_idle_start {s : State} {v : Word32} (hb : s.busy = false) (hstart : v.getLsbD 0 = true) :
    writeCtrl v s = .ok (startRun { s with irqEn := v.getLsbD 2 }) := by
  simp only [writeCtrl, hb, hstart, Bool.false_eq_true, if_true, if_false]

theorem writeCtrl_idle_noStart {s : State} {v : Word32} (hb : s.busy = false) (hstart : v.getLsbD 0 = false) :
    writeCtrl v s = .ok { s with irqEn := v.getLsbD 2 } := by
  simp only [writeCtrl, hb, hstart, Bool.false_eq_true, if_false]

/-- While busy a write to CTRL takes IRQ_EN and refuses a START; what is left is the ABORT. -/
theorem writeCtrl_busy {s : State} {v : Word32} (hb : s.busy = true) :
    writeCtrl v s =
      if v.getLsbD 1 then abortRun { s with irqEn := v.getLsbD 2, accerr := s.accerr || v.getLsbD 0 }
      else .ok { s with irqEn := v.getLsbD 2, accerr := s.accerr || v.getLsbD 0 } := by
  cases hstart : v.getLsbD 0 with
  | false => simp only [writeCtrl, hb, hstart, Bool.or_false, Bool.false_eq_true, if_true, if_false]
  | true => simp only [writeCtrl, hb, hstart, refuseAccess, Bool.or_true, if_true]

theorem abortRun_written {s : State} {w : Word32} (h : s.fetch = some w) :
    abortRun s = .ok (endError .aborted s.pc w s) := by simp [abortRun, h]

theorem abortRun_unwritten {s : State} (h : s.fetch = none) :
    abortRun s = .error (.uninit (.cmd s.pc.toNat)) := by simp [abortRun, h]

/-- What a write to CTRL leaves: a run started while idle, IRQ_EN and perhaps ACCERR alone, or a run aborted. -/
theorem writeCtrl_cases {v : Word32} {s t : State} (h : writeCtrl v s = .ok t) :
    (s.busy = false ∧ t = startRun { s with irqEn := v.getLsbD 2 }) ∨
    (∃ b, t = { s with irqEn := v.getLsbD 2, accerr := s.accerr || b }) ∨
    ∃ b w, s.busy = true ∧ t = endError .aborted s.pc w { s with irqEn := v.getLsbD 2, accerr := s.accerr || b } := by
  rcases Bool.eq_false_or_eq_true s.busy with hb | hb
  · rw [writeCtrl_busy hb] at h
    split at h
    · obtain ⟨w, -, rfl⟩ := abortRun_ok h
      exact .inr (.inr ⟨_, w, hb, rfl⟩)
    · cases h
      exact .inr (.inl ⟨_, rfl⟩)
  · cases hstart : v.getLsbD 0 with
    | false =>
      rw [writeCtrl_idle_noStart hb hstart] at h
      cases h
      exact .inr (.inl ⟨false, by rw [Bool.or_false]⟩)
    | true =>
      rw [writeCtrl_idle_start hb hstart] at h
      cases h
      exact .inl ⟨hb, rfl⟩

/-! ## Inversion of a bus transaction -/

/-- What a bus write of `v` at `off` can do to the block (R70 to R79): the arrays and ENTRY change while idle alone. -/
inductive WriteEffect (off : Offset) (v : Word32) (s : State) : State → Prop
  | ignored : WriteEffect off v s s
  | refused : WriteEffect off v s (refuseAccess s)
  | status (hloc : locate off = .status) : WriteEffect off v s (writeStatus v s)
  | ctrl {t : State} (hloc : locate off = .ctrl) (ht : writeCtrl v s = .ok t) : WriteEffect off v s t
  | entry (idle : s.busy = false) : WriteEffect off v s { s with entry := v.setWidth 8 }
  | cmd {a : Nat} (idle : s.busy = false) (ha : a < 256) : WriteEffect off v s { s with cmd := s.cmd.write a v }
  | w (i j : Nat) (idle : s.busy = false) : WriteEffect off v s (s.pokeW i j v)
  | s (k j : Nat) (idle : s.busy = false) : WriteEffect off v s (s.pokeS k j v)

/-- A write locked while busy is refused or has its effect in an idle block (R78). -/
theorem writeEffect_locked {off : Offset} {v : Word32} {s t : State}
    (h : s.busy = false → WriteEffect off v s t) :
    WriteEffect off v s (if s.busy then refuseAccess s else t) := by
  cases hb : s.busy with
  | true => exact .refused
  | false => exact h hb

theorem busWrite_effect {bytes : Nat} {off : Offset} {v : Word32} {s t : State}
    (h : busWrite bytes off v s = .ok t) : WriteEffect off v s t := by
  unfold busWrite at h
  split at h
  · cases hloc : locate off with
    | ctrl => rw [hloc] at h; exact .ctrl hloc h
    | id | version | pc | errpc | errcmd => rw [hloc] at h; cases h; exact .ignored
    | status => rw [hloc] at h; cases h; exact .status hloc
    | entry => rw [hloc] at h; cases h; exact writeEffect_locked .entry
    | cmd a => rw [hloc] at h; cases h; exact writeEffect_locked fun idle => .cmd idle (locate_cmd_lt hloc)
    | w i j => rw [hloc] at h; cases h; exact writeEffect_locked (.w i j)
    | s k j => rw [hloc] at h; cases h; exact writeEffect_locked (.s k j)
    | reserved => rw [hloc] at h; cases h; exact .refused
  · cases h; exact .refused

theorem writeStep_effect {bytes : Nat} {off : Offset} {v : Word32} {s t : State}
    (h : writeStep bytes off v s = .next t) : WriteEffect off v s t := by
  unfold writeStep at h
  split at h
  · next hw => cases h; exact busWrite_effect hw
  · cases h

/-- A bus read keeps its answer at the port, and all else it can change is ACCERR (R79). -/
theorem readStep_next {bytes : Nat} {off : Offset} {s t : State} (h : readStep bytes off s = .next t) :
    ∃ v, t = { s with rdata := some v } ∨ t = { refuseAccess s with rdata := some v } := by
  unfold readStep at h
  split at h
  · next v u hr =>
    cases h
    rcases busRead_state hr with rfl | ⟨rfl, -⟩
    · exact ⟨v, .inl rfl⟩
    · exact ⟨v, .inr rfl⟩
  · cases h

/-! ## Inversion of a command and of a core step -/

/-- What a command leaves (R130): HALT's end of the run, a recorded error of the check, the result with PC_OVERFLOW at
address 255, or the result at the next address. -/
theorem exec_cases {i : Instr} {s t : State} (h : exec i s = .next t) :
    (i = .halt ∧ t = endHalt s) ∨
    (∃ e, check i s = some e ∧ t = endError e s.pc (encode i) s) ∨
    ∃ (rd : WIdx) (ws : List Word), check i s = none ∧ (destOf i = some (rd, ws.length) ∨ (i = .nop ∧ ws = [])) ∧
      ((s.pc = 255 ∧ t = endError .pcOverflow 255 (encode i) (s.writeWords rd.toNat ws)) ∨
       (s.pc ≠ 255 ∧ t = { s.writeWords rd.toNat ws with pc := s.pc + 1 })) := by
  by_cases hi : i = .halt
  · rw [hi, exec_halt] at h
    cases h
    exact .inl ⟨hi, rfl⟩
  · obtain ⟨rd, ws, he, hd⟩ := exec_eq_command i s hi
    rw [he] at h
    rcases command_cases i rd ws s with ⟨e, hc, hn⟩ | ⟨hc, hpc, hn⟩ | ⟨hc, hpc, hn⟩ <;> rw [hn] at h <;> cases h
    · exact .inr (.inl ⟨e, hc, rfl⟩)
    · exact .inr (.inr ⟨rd, ws, hc, hd, .inl ⟨hpc, rfl⟩⟩)
    · exact .inr (.inr ⟨rd, ws, hc, hd, .inr ⟨hpc, rfl⟩⟩)

theorem exec_cmd {i : Instr} {s t : State} (h : exec i s = .next t) : t.cmd = s.cmd := by
  rcases exec_cases h with ⟨-, rfl⟩ | ⟨e, -, rfl⟩ | ⟨rd, ws, -, -, ⟨-, rfl⟩ | ⟨-, rfl⟩⟩
  · rfl
  · rfl
  · exact State.writeWords_cmd s rd.toNat ws
  · exact State.writeWords_cmd s rd.toNat ws

/-- What a core step that answers a next state leaves (R130, R318). -/
theorem coreStep_next {s t : State} (h : coreStep s = .next t) :
    t = s ∨ (∃ e w, t = endError e s.pc w s) ∨ ∃ i, exec i s = .next t := by
  rcases coreStep_cases s with ⟨-, hn⟩ | ⟨-, -, hn⟩ | ⟨w, e, -, -, -, hn⟩ | ⟨w, i, -, -, -, hn⟩ <;> rw [hn] at h
  · cases h; exact .inl rfl
  · cases h
  · cases h; exact .inr (.inl ⟨_, w, rfl⟩)
  · exact .inr (.inr ⟨i, h⟩)

/-- What a step is, with `l` left of the schedule: the core's, the transaction's or the reset's that headed it. -/
theorem step_next {s t : State} (h : step s = .next t) :
    ∃ l,
      (CoreTurn s ∧ coreStep { s with script := l } = .next t) ∨
      (∃ n off, s.script = .read n off :: l ∧ readStep n off { s with script := l } = .next t) ∨
      (∃ n off v, s.script = .write n off v :: l ∧ writeStep n off v { s with script := l } = .next t) ∨
      (s.script = .reset :: l ∧ t = resetPulse { s with script := l }) := by
  cases hs : s.script with
  | nil => exact ⟨[], .inl ⟨.inl hs, by rw [step_unscheduled hs] at h; rwa [← hs]⟩⟩
  | cons a l =>
    refine ⟨l, ?_⟩
    cases a with
    | core => exact .inl ⟨.inr ⟨l, hs⟩, step_core hs ▸ h⟩
    | read n off => exact .inr (.inl ⟨n, off, rfl, step_read hs ▸ h⟩)
    | write n off v => exact .inr (.inr (.inl ⟨n, off, v, rfl, step_write hs ▸ h⟩))
    | reset =>
      rw [step_reset hs] at h
      cases h
      exact .inr (.inr (.inr ⟨rfl, rfl⟩))

end Sys2Proof.Proofs
end

section
/-! SUPPORT. What a step other than reset does to the run in progress and to the command memory: the two facts that the
invariant (spec/10_state.md R42) and the interrupt line (R48) rest on. -/

namespace Sys2Proof.Proofs

open Sys2Proof Sys2Proof.Machine Sys2Proof.Laws

/-- STATUS from s to t: BUSY and ERRCODE stay and DONE is not raised, or a run ends with DONE, or an idle block starts a
run with DONE and ERRCODE clear. -/
def RunEvent (s t : State) : Prop :=
  (t.busy = s.busy ∧ (s.done = false → t.done = false) ∧ t.errcode = s.errcode) ∨
  (t.busy = false ∧ t.done = true) ∨
  (s.busy = false ∧ t.busy = true ∧ t.done = false ∧ t.errcode = .none)

theorem runEvent_kept {s t : State} (hb : t.busy = s.busy) (hd : t.done = s.done) (he : t.errcode = s.errcode) :
    RunEvent s t := .inl ⟨hb, hd.trans, he⟩

theorem runEvent_ended {s t : State} (hb : t.busy = false) (hd : t.done = true) : RunEvent s t := .inr (.inl ⟨hb, hd⟩)

theorem runEvent_started {s t : State} (hidle : s.busy = false) (hb : t.busy = true) (hd : t.done = false)
    (he : t.errcode = .none) : RunEvent s t := .inr (.inr ⟨hidle, hb, hd, he⟩)

/-- A command goes to the next address, or it ends the run where it stands (R35, R130). -/
theorem exec_advances_or_ends {i : Instr} {s t : State} (h : exec i s = .next t) :
    (s.pc ≠ 255 ∧ t.pc = s.pc + 1 ∧ t.busy = s.busy ∧ t.done = s.done ∧ t.errcode = s.errcode ∧ t.errpc = s.errpc ∧
      t.errcmd = s.errcmd) ∨
    (t.pc = s.pc ∧ t.busy = false ∧ t.done = true) := by
  rcases exec_cases h with ⟨-, rfl⟩ | ⟨e, -, rfl⟩ | ⟨rd, ws, -, -, ⟨hpc, rfl⟩ | ⟨hpc, rfl⟩⟩
  · exact .inr ⟨rfl, rfl, rfl⟩
  · exact .inr ⟨rfl, rfl, rfl⟩
  · exact .inr ⟨hpc.symm, rfl, rfl⟩
  · exact .inl ⟨hpc, rfl, by simp⟩

theorem coreStep_runEvent {s t : State} (h : coreStep s = .next t) : RunEvent s t := by
  rcases coreStep_next h with rfl | ⟨e, w, rfl⟩ | ⟨i, hi⟩
  · exact runEvent_kept rfl rfl rfl
  · exact runEvent_ended rfl rfl
  · rcases exec_advances_or_ends hi with ⟨-, -, hb, hd, he, -, -⟩ | ⟨-, hb, hd⟩
    · exact runEvent_kept hb hd he
    · exact runEvent_ended hb hd

theorem readStep_runEvent {n : Nat} {off : Offset} {s t : State} (h : readStep n off s = .next t) : RunEvent s t := by
  rcases readStep_next h with ⟨v, rfl | rfl⟩ <;> exact runEvent_kept rfl rfl rfl

theorem writeCtrl_runEvent {v : Word32} {s t : State} (h : writeCtrl v s = .ok t) : RunEvent s t := by
  rcases writeCtrl_cases h with ⟨hidle, rfl⟩ | ⟨b, rfl⟩ | ⟨b, w, -, rfl⟩
  · exact runEvent_started hidle rfl rfl rfl
  · exact runEvent_kept rfl rfl rfl
  · exact runEvent_ended rfl rfl

theorem writeEffect_runEvent {off : Offset} {v : Word32} {s t : State} (h : WriteEffect off v s t) : RunEvent s t := by
  cases h with
  | ctrl _ ht => exact writeCtrl_runEvent ht
  | status => exact .inl ⟨rfl, fun hd => by simp [hd], rfl⟩
  | ignored | refused | entry | cmd | w | s => exact runEvent_kept rfl rfl rfl

theorem runEvent_of_script {s t : State} {l : List Action} (h : RunEvent { s with script := l } t) : RunEvent s t := h

theorem step_runEvent {s t : State} (hr : ∀ l, s.script ≠ .reset :: l) (h : step s = .next t) : RunEvent s t := by
  obtain ⟨l, ⟨-, hc⟩ | ⟨n, off, -, hread⟩ | ⟨n, off, v, -, hwrite⟩ | ⟨hs, -⟩⟩ := step_next h
  · exact runEvent_of_script (coreStep_runEvent hc)
  · exact runEvent_of_script (readStep_runEvent hread)
  · exact runEvent_of_script (writeEffect_runEvent (writeStep_effect hwrite))
  · exact absurd hs (hr l)

/-! ## The command memory -/

theorem coreStep_cmd {s t : State} (h : coreStep s = .next t) : t.cmd = s.cmd := by
  rcases coreStep_next h with rfl | ⟨e, w, rfl⟩ | ⟨i, hi⟩
  · rfl
  · rfl
  · exact exec_cmd hi

theorem readStep_cmd {n : Nat} {off : Offset} {s t : State} (h : readStep n off s = .next t) : t.cmd = s.cmd := by
  rcases readStep_next h with ⟨v, rfl | rfl⟩ <;> rfl

theorem writeCtrl_cmd {v : Word32} {s t : State} (h : writeCtrl v s = .ok t) : t.cmd = s.cmd := by
  rcases writeCtrl_cases h with ⟨-, rfl⟩ | ⟨b, rfl⟩ | ⟨b, w, -, rfl⟩ <;> rfl

theorem writeEffect_keeps_cmd_wf {off : Offset} {v : Word32} {s t : State} (h : WriteEffect off v s t)
    (hwf : s.cmd.wf = true) : t.cmd.wf = true := by
  cases h with
  | ctrl _ ht => rwa [writeCtrl_cmd ht]
  | cmd _ ha => exact memory_wf_write _ _ _ hwf ha
  | ignored | refused | status | entry | w | s => exact hwf

/-! ## The invariant -/

theorem statusLegal_of_runEvent {s t : State} (h : RunEvent s t) (hs : StatusLegal s) : StatusLegal t := by
  intro ht
  rcases h with ⟨hb, hd, he⟩ | ⟨hb, -⟩ | ⟨-, -, hd, he⟩
  · obtain ⟨hdone, hcode⟩ := hs (hb ▸ ht)
    exact ⟨hd hdone, he.trans hcode⟩
  · rw [hb] at ht; cases ht
  · exact ⟨hd, he⟩

/-- Reset leaves BUSY 0 and the command memory empty (R51). -/
theorem resetPulse_inv (s : State) : Inv (resetPulse s) := ⟨fun h => (Bool.false_ne_true h).elim, rfl⟩

theorem step_keeps_inv {s t : State} (hs : Inv s) (h : step s = .next t) : Inv t := by
  obtain ⟨hlegal, hwf⟩ := hs
  obtain ⟨l, ⟨-, hc⟩ | ⟨n, off, -, hread⟩ | ⟨n, off, v, -, hwrite⟩ | ⟨-, rfl⟩⟩ := step_next h
  · exact ⟨statusLegal_of_runEvent (coreStep_runEvent hc) hlegal, coreStep_cmd hc ▸ hwf⟩
  · exact ⟨statusLegal_of_runEvent (readStep_runEvent hread) hlegal, readStep_cmd hread ▸ hwf⟩
  · have heff := writeStep_effect hwrite
    exact ⟨statusLegal_of_runEvent (writeEffect_runEvent heff) hlegal, writeEffect_keeps_cmd_wf heff hwf⟩
  · exact resetPulse_inv _

/-- Settles O57: a step other than reset keeps, ends or starts the run, and writes command memory in order. -/
theorem everyStepKeepsTheInvariant : Obligations.EveryStepKeepsTheInvariant := fun _ _ => step_keeps_inv

/-- Settles O58: the state after reset is idle and its command memory lists nothing. -/
theorem resetMeetsTheInvariant : Obligations.ResetMeetsTheInvariant := resetPulse_inv State.reset

/-- Settles O12, from the four ways a command can leave the block. -/
theorem commandsAdvanceOrEndTheRun : Obligations.CommandsAdvanceOrEndTheRun := fun _ _ _ => exec_advances_or_ends

/-- Settles O47: from busy to idle a step can only have ended the run. -/
theorem runEndsRaiseDoneAndIrq : Obligations.RunEndsRaiseDoneAndIrq := by
  refine ⟨fun s => by simp [State.irq], fun s t hr h hbusy hidle => ?_⟩
  have hdone : t.done = true := by
    rcases step_runEvent hr h with ⟨hb, -, -⟩ | ⟨-, hd⟩ | ⟨hb, -, -, -⟩
    · rw [hb, hbusy] at hidle; cases hidle
    · exact hd
    · rw [hb] at hbusy; cases hbusy
  exact ⟨hdone, by simp [State.irq, hdone]⟩

end Sys2Proof.Proofs
end

section
/-! SUPPORT. Canonical results (spec/10_state.md R37): every value function gives canonical words, from canonical sources
where it copies them, and so does every command but MOV. -/

namespace Sys2Proof.Proofs

open Sys2Proof Sys2Proof.Machine Sys2Proof.Laws

/-! ## The constants (R36, R135) -/

theorem r2_lt : Config.r2 < Config.p := r2_def.trans_lt (Nat.mod_lt _ p_pos)

theorem m4_lt : Config.m4 < Config.p := m4_def.trans_lt (toMont_lt 4)

theorem g2gen_canon : CanonG2 g2gen := by
  obtain ⟨hx0, hx1, hy0, hy1⟩ := generator_def
  exact ⟨⟨hx0.trans_lt (toMont_lt _), hx1.trans_lt (toMont_lt _)⟩,
    ⟨hy0.trans_lt (toMont_lt _), hy1.trans_lt (toMont_lt _)⟩, f2one_canon⟩

/-! ## The tower functions -/

theorem f6mul01_canon (a : Fp6) (b0 b1 : Fp2) : Canon6 (f6mul01 a b0 b1) :=
  ⟨f2add_canon _ _, f2add_canon _ _, f2add_canon _ _⟩

theorem f6mul1_canon (a : Fp6) (b1 : Fp2) : Canon6 (f6mul1 a b1) := ⟨f2mulnr_canon _, f2mul_canon _ _, f2mul_canon _ _⟩

theorem f12add_canon (a b : Fp12) : Canon12 (f12add a b) := ⟨f6add_canon _ _, f6add_canon _ _⟩

theorem f12sub_canon (a b : Fp12) : Canon12 (f12sub a b) := ⟨f6sub_canon _ _, f6sub_canon _ _⟩

theorem f12mul014_canon (a : Fp12) (l0 l1 l4 : Fp2) : Canon12 (f12mul014 a l0 l1 l4) :=
  ⟨f6add_canon _ _, f6sub_canon _ _⟩

theorem f12inv_canon (mode : InvMode) (a : Fp12) : Canon12 (f12inv mode a) := ⟨f6mul_canon _ _, f6neg_canon _⟩

theorem f12conj_canon {a : Fp12} (h : Canon12 a) : Canon12 (f12conj a) := ⟨h.1, f6neg_canon _⟩

/-! ## Subtraction of points and the scalar multipliers (R235, R261 to R264) -/

theorem pointSub_canon {P Q : G2} (hP : CanonG2 P) (hQ : CanonG2 Q) : CanonG2 (pointSub P Q) :=
  pointAdd_canon hP (pointNeg_canon hQ)

theorem smulLoop_canon (e k i : Nat) {q n : G2} (hq : CanonG2 q) (hn : CanonG2 n) : CanonG2 (smulLoop e k i q n) := by
  induction k generalizing i q n with
  | zero => exact hq
  | succ k ih =>
    unfold smulLoop
    refine ih (i + 1) ?_ (pointDbl_canon hn)
    split
    · exact pointAdd_canon hq hn
    · exact hq

theorem smul_canon {P : G2} (h : CanonG2 P) (e : Nat) : CanonG2 (smul P e) := smulLoop_canon e _ _ g2zero_canon h

theorem multiplesFrom_canon {D : G2} (hD : CanonG2 D) (n : Nat) {acc : G2} (hacc : CanonG2 acc) :
    ∀ Q ∈ multiplesFrom D n acc, CanonG2 Q := by
  induction n generalizing acc with
  | zero => exact List.forall_mem_nil _
  | succ n ih => exact List.forall_mem_cons.2 ⟨hacc, ih (pointAdd_canon hacc hD)⟩

theorem oddMultiples_canon {P : G2} (h : CanonG2 P) : ∀ Q ∈ oddMultiples P, CanonG2 Q :=
  multiplesFrom_canon (pointDbl_canon h) 16 h

theorem wnafTable_canon {P : G2} (h : CanonG2 P) : ∀ Q ∈ wnafTable P, CanonG2 Q := by
  intro Q hQ
  rcases List.mem_append.1 hQ with hneg | hpos
  · obtain ⟨R, hR, rfl⟩ := List.mem_map.1 (List.mem_reverse.1 hneg)
    exact pointNeg_canon (oddMultiples_canon h R hR)
  · exact oddMultiples_canon h Q hpos

/-- Every entry a digit selects is canonical, one past the table too. -/
theorem wnafTable_getD_canon {P : G2} (h : CanonG2 P) (i : Nat) : CanonG2 ((wnafTable P).getD i g2zero) := by
  by_cases hi : i < (wnafTable P).length
  · rw [List.getD_eq_getElem _ _ hi]
    exact wnafTable_canon h _ (List.getElem_mem hi)
  · rw [List.getD_eq_default _ _ (not_lt.1 hi)]
    exact g2zero_canon

theorem smulwStep_canon {P : G2} (h : CanonG2 P) {st : G2 × Bool} (hst : CanonG2 st.1) (d : Int) :
    CanonG2 (smulwStep (wnafTable P) st d).1 := by
  have hq : CanonG2 (if st.2 then pointDbl st.1 else st.1) := by
    split
    · exact pointDbl_canon hst
    · exact hst
  unfold smulwStep
  dsimp only
  split
  · exact hq
  · exact pointAdd_canon hq (wnafTable_getD_canon h _)

theorem smulw_canon {P : G2} (h : CanonG2 P) (e : Nat) : CanonG2 (smulw P e) :=
  List.foldlRecOn (motive := fun st : G2 × Bool => CanonG2 st.1) _ _ g2zero_canon
    fun _ hst d _ => smulwStep_canon h hst d

/-! ## The words of a value -/

/-- Every word of a result is canonical. -/
def CanonWords (ws : List Word) : Prop := ∀ w ∈ ws, w.toNat < Config.p

theorem canonWords_fp {x : Nat} (h : x < Config.p) : CanonWords [fw x] :=
  List.forall_mem_singleton.2 ((toNat_fw h).symm ▸ h)

theorem canonWords_append {xs ys : List Word} (hx : CanonWords xs) (hy : CanonWords ys) : CanonWords (xs ++ ys) :=
  List.forall_mem_append.2 ⟨hx, hy⟩

theorem canonWords_fp2 {a : Fp2} (h : Canon2 a) : CanonWords a.words :=
  canonWords_append (canonWords_fp h.1) (canonWords_fp h.2)

theorem canonWords_fp6 {a : Fp6} (h : Canon6 a) : CanonWords a.words :=
  canonWords_append (canonWords_append (canonWords_fp2 h.1) (canonWords_fp2 h.2.1)) (canonWords_fp2 h.2.2)

theorem canonWords_fp12 {a : Fp12} (h : Canon12 a) : CanonWords a.words :=
  canonWords_append (canonWords_fp6 h.1) (canonWords_fp6 h.2)

theorem canonWords_g2 {P : G2} (h : CanonG2 P) : CanonWords P.words :=
  canonWords_append (canonWords_append (canonWords_fp2 h.1) (canonWords_fp2 h.2.1)) (canonWords_fp2 h.2.2)

theorem canonWords_ldc (k : LdcConst) : CanonWords (ldcWords k) := by
  cases k with
  | zero => exact canonWords_fp p_pos
  | one => exact canonWords_fp one_lt
  | r2 => exact canonWords_fp r2_lt
  | g2zero => exact canonWords_g2 g2zero_canon
  | g2gen => exact canonWords_g2 g2gen_canon
  | b2 => exact canonWords_append (canonWords_fp m4_lt) (canonWords_fp m4_lt)

/-! ## The words a command writes -/

/-- The command is the command cycle, with canonical words as the result for its whole destination. -/
def WritesCanonical (i : Instr) (s : State) : Prop :=
  ∃ rd ws, exec i s = command i rd ws s ∧ destOf i = some (rd, ws.length) ∧ CanonWords ws

/-- The sources of a command that passes the check are canonical, MOV's apart (R303). -/
theorem sources_canonW {i : Instr} {s : State} (hcan : checksCanonical i = true) (hc : check i s = none) :
    ∀ o ∈ sourcesOf i, CanonW s o.1 o.2 :=
  (sourcesCanonical_iff i s hcan).1 ((check_eq_none_iff i s).1 hc).2.2

theorem sourceG2_canon {i : Instr} {s : State} {a : WIdx} (hcan : checksCanonical i = true) (hc : check i s = none)
    (ha : (a, 6) ∈ sourcesOf i) : CanonG2 (s.rdG2 a.toNat) := canon_rdG2 (sources_canonW hcan hc (a, 6) ha)

theorem writesCanonical_of_check {i : Instr} {s : State} {o : WIdx × Nat} (hmov : ∀ d a c, i ≠ .mov d a c)
    (hd : destOf i = some o) (hc : check i s = none) : WritesCanonical i s := by
  cases i with
  | nop | halt => cases hd
  | mov d a c => exact absurd rfl (hmov d a c)
  | ldc rd k => exact ⟨rd, _, rfl, by rw [ldcWords_length]; rfl, canonWords_ldc k⟩
  | fadd | fdbl => exact ⟨_, _, rfl, rfl, canonWords_fp (addp_lt _ _)⟩
  | fsub => exact ⟨_, _, rfl, rfl, canonWords_fp (subp_lt _ _)⟩
  | fneg => exact ⟨_, _, rfl, rfl, canonWords_fp (negp_lt _)⟩
  | fmul | fsqr | tomont | frommont => exact ⟨_, _, rfl, rfl, canonWords_fp (mont_lt _ _)⟩
  | finv => exact ⟨_, _, rfl, rfl, canonWords_fp (invFw_lt _ _)⟩
  | fexp => exact ⟨_, _, rfl, rfl, canonWords_fp (expm_lt _ _)⟩
  | f2add => exact ⟨_, _, rfl, rfl, canonWords_fp2 (f2add_canon _ _)⟩
  | f2sub => exact ⟨_, _, rfl, rfl, canonWords_fp2 (f2sub_canon _ _)⟩
  | f2neg => exact ⟨_, _, rfl, rfl, canonWords_fp2 (f2neg_canon _)⟩
  | f2dbl => exact ⟨_, _, rfl, rfl, canonWords_fp2 (f2dbl_canon _)⟩
  | f2mul => exact ⟨_, _, rfl, rfl, canonWords_fp2 (f2mul_canon _ _)⟩
  | f2sqr => exact ⟨_, _, rfl, rfl, canonWords_fp2 (f2sqr_canon _)⟩
  | f2inv => exact ⟨_, _, rfl, rfl, canonWords_fp2 (f2inv_canon _ _)⟩
  | f2mulnr => exact ⟨_, _, rfl, rfl, canonWords_fp2 (f2mulnr_canon _)⟩
  | f2conj rd a =>
    have ha := sources_canonW rfl hc (a, 2) List.mem_cons_self
    exact ⟨_, _, rfl, rfl, canonWords_fp2 (f2conj_canon (canon_rdFp2 ha))⟩
  | f6add => exact ⟨_, _, rfl, rfl, canonWords_fp6 (f6add_canon _ _)⟩
  | f6sub => exact ⟨_, _, rfl, rfl, canonWords_fp6 (f6sub_canon _ _)⟩
  | f6neg => exact ⟨_, _, rfl, rfl, canonWords_fp6 (f6neg_canon _)⟩
  | f6mul | f6sqr => exact ⟨_, _, rfl, rfl, canonWords_fp6 (f6mul_canon _ _)⟩
  | f6mul01 => exact ⟨_, _, rfl, rfl, canonWords_fp6 (f6mul01_canon _ _ _)⟩
  | f6mul1 => exact ⟨_, _, rfl, rfl, canonWords_fp6 (f6mul1_canon _ _)⟩
  | f6inv => exact ⟨_, _, rfl, rfl, canonWords_fp6 (f6inv_canon _ _)⟩
  | f6mulnr rd a =>
    have ha := sources_canonW rfl hc (a, 6) List.mem_cons_self
    exact ⟨_, _, rfl, rfl, canonWords_fp6 (f6mulnr_canon (canon_rdFp6 ha))⟩
  | f12add => exact ⟨_, _, rfl, rfl, canonWords_fp12 (f12add_canon _ _)⟩
  | f12sub => exact ⟨_, _, rfl, rfl, canonWords_fp12 (f12sub_canon _ _)⟩
  | f12mul | f12sqr => exact ⟨_, _, rfl, rfl, canonWords_fp12 (f12mul_canon _ _)⟩
  | f12mul014 => exact ⟨_, _, rfl, rfl, canonWords_fp12 (f12mul014_canon _ _ _ _)⟩
  | f12inv => exact ⟨_, _, rfl, rfl, canonWords_fp12 (f12inv_canon _ _)⟩
  | f12conj rd a =>
    have ha := sources_canonW rfl hc (a, 12) List.mem_cons_self
    exact ⟨_, _, rfl, rfl, canonWords_fp12 (f12conj_canon (canon_rdFp12 ha))⟩
  | g2add rd a b =>
    have ha := sourceG2_canon rfl hc (a := a) List.mem_cons_self
    have hb := sourceG2_canon rfl hc (a := b) (List.mem_cons_of_mem _ List.mem_cons_self)
    exact ⟨_, _, rfl, rfl, canonWords_g2 (pointAdd_canon ha hb)⟩
  | g2sub rd a b =>
    have ha := sourceG2_canon rfl hc (a := a) List.mem_cons_self
    have hb := sourceG2_canon rfl hc (a := b) (List.mem_cons_of_mem _ List.mem_cons_self)
    exact ⟨_, _, rfl, rfl, canonWords_g2 (pointSub_canon ha hb)⟩
  | g2addm rd a b =>
    have ha := sourceG2_canon rfl hc (a := a) List.mem_cons_self
    have hb := sources_canonW rfl hc (b, 4) (List.mem_cons_of_mem _ List.mem_cons_self)
    exact ⟨_, _, rfl, rfl, canonWords_g2 (pointAddMixed_canon ha (canon_rdFp2_at (k := 0) hb (by omega))
      (canon_rdFp2_at (k := 2) hb le_rfl))⟩
  | g2dbl => exact ⟨_, _, rfl, rfl, canonWords_g2 (pointDbl_canon (sourceG2_canon rfl hc List.mem_cons_self))⟩
  | g2neg => exact ⟨_, _, rfl, rfl, canonWords_g2 (pointNeg_canon (sourceG2_canon rfl hc List.mem_cons_self))⟩
  | g2smul => exact ⟨_, _, rfl, rfl, canonWords_g2 (smul_canon (sourceG2_canon rfl hc List.mem_cons_self) _)⟩
  | g2smulw => exact ⟨_, _, rfl, rfl, canonWords_g2 (smulw_canon (sourceG2_canon rfl hc List.mem_cons_self) _)⟩

/-- The destination of a command that passes the check lies in the file (R101, R303). -/
theorem dest_fits {i : Instr} {s : State} {rd : WIdx} {n : Nat} (hc : check i s = none)
    (hd : destOf i = some (rd, n)) : rd.toNat + n ≤ 256 :=
  (rangesOk_iff i).1 ((check_eq_none_iff i s).1 hc).2.1 (rd, n) (by simp [operandsOf, hd])

/-- Whichever address a command that passes the check stands at, W afterwards holds its result. -/
theorem command_next_readW {i : Instr} {rd : WIdx} {ws : List Word} {s t : State} (hc : check i s = none)
    (h : command i rd ws s = .next t) (k : Nat) : t.readW k = (s.writeWords rd.toNat ws).readW k := by
  rcases command_cases i rd ws s with ⟨e, he, -⟩ | ⟨-, -, hn⟩ | ⟨-, -, hn⟩
  · rw [hc] at he; cases he
  · rw [hn] at h; cases h; rfl
  · rw [hn] at h; cases h; rfl

/-- Settles O13: the result is canonical, and it stands in the destination. -/
theorem completedCommandsWriteCanonicalWords : Obligations.CompletedCommandsWriteCanonicalWords := by
  intro i s t rd n hmov hd hc h j hj
  obtain ⟨rd', ws, he, hd', hws⟩ := writesCanonical_of_check hmov hd hc
  obtain ⟨rfl, rfl⟩ : rd' = rd ∧ ws.length = n := by simpa [hd'] using hd
  have hword := (readW_writeWords_inside s rd'.toNat j ws hj (dest_fits hc hd)).1
  rw [command_next_readW hc (he ▸ h), hword]
  exact hws _ (List.getElem_mem hj)

end Sys2Proof.Proofs
end

section
/-! SUPPORT. The registers of the host window (spec/10_state.md R40 to R47): where they are, what a read of each returns
and what a write to each does. -/

namespace Sys2Proof.Proofs

open Sys2Proof Sys2Proof.Machine Sys2Proof.Laws

/-! ## A transaction that heads the schedule -/

theorem step_read_served {s : State} {n : Nat} {off : Offset} {rest : List Action} {v : Word32}
    (hs : s.script = .read n off :: rest)
    (hr : busRead n off { s with script := rest } = .ok (v, { s with script := rest })) :
    step s = .next { s with script := rest, rdata := some v } := by
  rw [step_read hs, readStep, hr]

theorem step_write_done {s t : State} {n : Nat} {off : Offset} {v : Word32} {rest : List Action}
    (hs : s.script = .write n off v :: rest) (hw : busWrite n off v { s with script := rest } = .ok t) :
    step s = .next t := by
  rw [step_write hs, writeStep, hw]

theorem step_write_fault {s : State} {n : Nat} {off : Offset} {v : Word32} {rest : List Action} {f : Fault}
    (hs : s.script = .write n off v :: rest) (hw : busWrite n off v { s with script := rest } = .error f) :
    step s = .fault f := by
  rw [step_write hs, writeStep, hw]

/-- A write to CTRL on the bus is `writeCtrl`. -/
theorem busWrite_ctrl (v : Word32) (s : State) : busWrite 4 0x000C v s = writeCtrl v s := rfl

/-- ENTRY is served while idle alone (R44, R78). -/
theorem busRead_entry_idle {s : State} (hidle : s.busy = false) :
    busRead 4 0x0010 s = .ok (s.entry.setWidth 32, s) := if_neg (hidle ▸ Bool.false_ne_true)

theorem busWrite_entry_idle {s : State} (v : Word32) (hidle : s.busy = false) :
    busWrite 4 0x0010 v s = .ok { s with entry := v.setWidth 8 } :=
  congrArg Except.ok (if_neg (hidle ▸ Bool.false_ne_true))

/-! ## The layouts as numbers (R42 to R46) -/

/-- STATUS: ERRCODE in 11:8, ACCERR in 2, DONE in 1 and BUSY in 0 (R42, R301). -/
theorem statusWord_eq_ofNat (s : State) :
    s.statusWord =
      BitVec.ofNat 32 (256 * errNumber s.errcode + 4 * s.accerr.toNat + 2 * s.done.toNat + s.busy.toNat) := by
  unfold State.statusWord
  generalize s.accerr = a, s.done = d, s.busy = b
  cases s.errcode <;> revert a d b <;> decide

/-- CTRL: IRQ_EN in 2 (R43). -/
theorem ctrlWord_eq_ofNat (s : State) : s.ctrlWord = BitVec.ofNat 32 (4 * s.irqEn.toNat) := by
  unfold State.ctrlWord
  cases s.irqEn <;> decide

/-- Settles O49: each register is at its offset and reads as its layout. -/
theorem registerReads : Obligations.RegisterReads := by
  intro s off rest hs
  refine ⟨?id, ?version, ?status, ?ctrl, ?entry, ?pc, ?errpc, ?errcmd⟩
  case id => rintro rfl; exact step_read_served hs rfl
  case version => rintro rfl; exact step_read_served hs rfl
  case status => rintro rfl; rw [← statusWord_eq_ofNat]; exact step_read_served hs rfl
  case ctrl => rintro rfl; rw [← ctrlWord_eq_ofNat]; exact step_read_served hs rfl
  case entry => rintro rfl hidle; rw [BitVec.ofNat_toNat]; exact step_read_served hs (busRead_entry_idle hidle)
  case pc => rintro rfl; rw [BitVec.ofNat_toNat]; exact step_read_served hs rfl
  case errpc => rintro rfl; rw [BitVec.ofNat_toNat]; exact step_read_served hs rfl
  case errcmd => rintro rfl; exact step_read_served hs rfl

/-- Settles O50: STATUS is written through its W1C bits, ENTRY while idle, and a read-only register not at all. -/
theorem registerWrites : Obligations.RegisterWrites := by
  intro s off v rest hs
  refine ⟨?status, ?entry, ?readOnly⟩
  case status => rintro rfl; exact step_write_done hs rfl
  case entry => rintro rfl hidle; exact step_write_done hs (busWrite_entry_idle v hidle)
  case readOnly =>
    simp only [List.mem_cons, List.not_mem_nil, or_false]
    rintro (rfl | rfl | rfl | rfl | rfl) <;> exact step_write_done hs rfl

/-! ## CTRL -/

/-- Settles O44: while idle START alone matters beside IRQ_EN. -/
theorem ctrlWriteWhileIdle : Obligations.CtrlWriteWhileIdle := by
  intro s v rest hs hidle
  exact ⟨fun hstart => step_write_done hs ((busWrite_ctrl _ _).trans (writeCtrl_idle_start hidle hstart)),
    fun hstart => step_write_done hs ((busWrite_ctrl _ _).trans (writeCtrl_idle_noStart hidle hstart))⟩

/-- Settles O45: while busy a START is refused, and an ABORT ends the run at an entry that has been written. -/
theorem ctrlWriteWhileBusy : Obligations.CtrlWriteWhileBusy := by
  intro s v rest hs hbusy
  have hctrl := (busWrite_ctrl v { s with script := rest }).trans (writeCtrl_busy hbusy)
  refine ⟨fun habort => ?_, fun w habort hw => ?_, fun habort hw => ?_⟩
  · rw [habort, if_neg Bool.false_ne_true] at hctrl
    exact step_write_done hs hctrl
  · rw [habort, if_pos rfl] at hctrl
    exact step_write_done hs (hctrl.trans (abortRun_written hw))
  · rw [habort, if_pos rfl] at hctrl
    exact step_write_fault hs (hctrl.trans (abortRun_unwritten hw))

end Sys2Proof.Proofs
end

section
/-! SUPPORT. The host window by ranges (spec/20_memory.md R71 to R79): where an offset lies, which accesses are refused,
what a run cannot change, and what clears ACCERR. -/

namespace Sys2Proof.Proofs

open Sys2Proof Sys2Proof.Machine Sys2Proof.Laws

/-! ## The layout (R71) -/

theorem locate_eq_cmd {off : Offset} (lo : 0x1000 ≤ off.toNat) (hi : off.toNat < 0x1400) :
    locate off = .cmd ((off.toNat - 0x1000) / 4) := by
  unfold locate
  dsimp only
  rw [if_neg (by omega), if_pos ⟨lo, hi⟩]

theorem locate_eq_w {off : Offset} (lo : 0x4000 ≤ off.toNat) (hi : off.toNat < 0x7000) :
    locate off = .w ((off.toNat - 0x4000) / 48) ((off.toNat - 0x4000) % 48 / 4) := by
  unfold locate
  dsimp only
  rw [if_neg (by omega), if_neg (by omega), if_pos ⟨lo, hi⟩]

theorem locate_eq_s {off : Offset} (lo : 0x8000 ≤ off.toNat) (hi : off.toNat < 0x8200) :
    locate off = .s ((off.toNat - 0x8000) / 128) ((off.toNat - 0x8000) % 128 / 4) := by
  unfold locate
  dsimp only
  rw [if_neg (by omega), if_neg (by omega), if_neg (by omega), if_pos ⟨lo, hi⟩]

theorem locate_eq_reserved {off : Offset}
    (h : (0x0020 ≤ off.toNat ∧ off.toNat < 0x1000) ∨ (0x1400 ≤ off.toNat ∧ off.toNat < 0x4000) ∨
      (0x7000 ≤ off.toNat ∧ off.toNat < 0x8000) ∨ 0x8200 ≤ off.toNat) :
    locate off = .reserved := by
  unfold locate
  dsimp only
  rw [if_neg (by omega), if_neg (by omega), if_neg (by omega), if_neg (by omega)]

/-- STATUS has one aligned offset (R40, R42). -/
theorem eq_status_offset {off : Offset} (haligned : off.toNat % 4 = 0) (h : locate off = .status) : off = 0x0008 := by
  have hword : off.toNat / 4 = 2 := by
    unfold locate at h
    dsimp only at h
    split_ifs at h
    split at h <;> cases h
    assumption
  apply BitVec.eq_of_toNat_eq
  change off.toNat = 8
  omega

theorem accessOk_iff {n : Nat} {off : Offset} : accessOk n off = true ↔ n = 4 ∧ off.toNat % 4 = 0 := by
  simp [accessOk]

/-! ## Refused accesses (R72, R77, R78, R308) -/

/-- The places that are locked while the core runs (R78). -/
inductive Locked : Loc → Prop
  | entry : Locked .entry
  | cmd (a : Nat) : Locked (.cmd a)
  | w (i j : Nat) : Locked (.w i j)
  | s (k j : Nat) : Locked (.s k j)

/-- The accesses that are refused, reads and writes alike; a refused START (R312) is a served write to CTRL. -/
inductive Refused (n : Nat) (off : Offset) (s : State) : Prop
  | access (h : accessOk n off = false)
  | reserved (h : locate off = .reserved)
  | locked (busy : s.busy = true) (h : Locked (locate off))

theorem busRead_refused {n : Nat} {off : Offset} {s : State} (h : Refused n off s) :
    busRead n off s = .ok (0, refuseAccess s) := by
  unfold busRead
  dsimp only
  split
  · next hok =>
    cases h with
    | access h => rw [hok] at h; cases h
    | reserved h => rw [h]
    | locked busy h =>
      generalize locate off = l at h
      cases h with
      | entry | cmd | w | s => exact if_pos busy
  · rfl

theorem busWrite_refused {n : Nat} {off : Offset} {s : State} (v : Word32) (h : Refused n off s) :
    busWrite n off v s = .ok (refuseAccess s) := by
  unfold busWrite
  split
  · next hok =>
    cases h with
    | access h => rw [hok] at h; cases h
    | reserved h => rw [h]
    | locked busy h =>
      generalize locate off = l at h
      cases h with
      | entry | cmd | w | s => exact congrArg Except.ok (if_pos busy)
  · rfl

/-- A refused transaction that heads the schedule. -/
theorem step_refused {s : State} {n : Nat} {off : Offset} {rest : List Action}
    (h : Refused n off { s with script := rest }) :
    (s.script = .read n off :: rest → step s = .next { s with script := rest, accerr := true, rdata := some 0 }) ∧
    (∀ v, s.script = .write n off v :: rest → step s = .next { s with script := rest, accerr := true }) := by
  refine ⟨fun hs => ?_, fun v hs => step_write_done hs (busWrite_refused v h)⟩
  rw [step_read hs, readStep, busRead_refused h]
  rfl

/-- Settles O53: a wrong width or alignment is no access, and the reserved offsets name nothing. -/
theorem refusedAccesses : Obligations.RefusedAccesses := by
  intro s n off rest h
  apply step_refused
  by_cases hok : accessOk n off = true
  · obtain ⟨hn, haligned⟩ := accessOk_iff.1 hok
    exact .reserved (locate_eq_reserved (by omega))
  · exact .access (Bool.eq_false_iff.2 hok)

/-! ## The lockout while busy (R78) -/

theorem locked_of_range {off : Offset}
    (h : off.toNat = 0x0010 ∨ (0x1000 ≤ off.toNat ∧ off.toNat ≤ 0x13FF) ∨ (0x4000 ≤ off.toNat ∧ off.toNat ≤ 0x6FFF) ∨
      (0x8000 ≤ off.toNat ∧ off.toNat ≤ 0x81FF)) :
    Locked (locate off) := by
  rcases h with hentry | ⟨lo, hi⟩ | ⟨lo, hi⟩ | ⟨lo, hi⟩
  · obtain rfl : off = 0x0010 := BitVec.eq_of_toNat_eq hentry
    exact .entry
  · rw [locate_eq_cmd lo (by omega)]; exact .cmd _
  · rw [locate_eq_w lo (by omega)]; exact .w _ _
  · rw [locate_eq_s lo (by omega)]; exact .s _ _

/-- The seven other registers answer, busy or idle, and a read of them changes nothing (R40, R78, R79). -/
theorem busRead_openRegister {off : Offset} (s : State) (haligned : off.toNat % 4 = 0) (hi : off.toNat ≤ 0x001C)
    (hentry : off.toNat ≠ 0x0010) : ∃ v, busRead 4 off s = .ok (v, s) := by
  have hoff : off.toNat = 0x00 ∨ off.toNat = 0x04 ∨ off.toNat = 0x08 ∨ off.toNat = 0x0C ∨ off.toNat = 0x14 ∨
      off.toNat = 0x18 ∨ off.toNat = 0x1C := by omega
  rw [← show BitVec.ofNat 16 off.toNat = off by simp]
  rcases hoff with h | h | h | h | h | h | h <;> rw [h] <;> exact ⟨_, rfl⟩

/-- Settles O51: the four locked ranges are refused, and the seven other registers are served. -/
theorem busyLockout : Obligations.BusyLockout := by
  intro s off rest hbusy haligned
  refine ⟨fun hlocked => step_refused (.locked hbusy (locked_of_range hlocked)), fun hopen hs => ?_⟩
  obtain ⟨v, hv⟩ := busRead_openRegister { s with script := rest } haligned hopen.1 hopen.2
  exact ⟨v, step_read_served hs hv⟩

/-! ## A read has no side effect but ACCERR (R79) -/

/-- Settles O56: what the port answers is kept, and all else a read can change is ACCERR, with the answer 0. -/
theorem readsHaveNoOtherSideEffect : Obligations.ReadsHaveNoOtherSideEffect := by
  intro s t n off rest hs h
  rw [step_read hs, readStep] at h
  split at h
  · next v u hr =>
    cases h
    rcases busRead_state hr with rfl | ⟨rfl, rfl⟩
    · exact ⟨rfl, .inl rfl⟩
    · exact ⟨rfl, .inr ⟨rfl, rfl⟩⟩
  · cases h

/-! ## What a run cannot change, and what clears ACCERR (R42, R78, R85) -/

/-- Command memory, the scalar registers and ENTRY are in t as in s. -/
def LockedKept (s t : State) : Prop := t.cmd = s.cmd ∧ t.sc = s.sc ∧ t.entry = s.entry

/-- A command touches nothing of what the host alone writes. -/
theorem exec_hostState {i : Instr} {s t : State} (h : exec i s = .next t) : LockedKept s t ∧ t.accerr = s.accerr := by
  rcases exec_cases h with ⟨-, rfl⟩ | ⟨e, -, rfl⟩ | ⟨rd, ws, -, -, ⟨-, rfl⟩ | ⟨-, rfl⟩⟩
  · exact ⟨⟨rfl, rfl, rfl⟩, rfl⟩
  · exact ⟨⟨rfl, rfl, rfl⟩, rfl⟩
  · simp [LockedKept]
  · simp [LockedKept]

theorem coreStep_hostState {s t : State} (h : coreStep s = .next t) : LockedKept s t ∧ t.accerr = s.accerr := by
  rcases coreStep_next h with rfl | ⟨e, w, rfl⟩ | ⟨i, hi⟩
  · exact ⟨⟨rfl, rfl, rfl⟩, rfl⟩
  · exact ⟨⟨rfl, rfl, rfl⟩, rfl⟩
  · exact exec_hostState hi

theorem readStep_hostState {n : Nat} {off : Offset} {s t : State} (h : readStep n off s = .next t) :
    LockedKept s t ∧ (s.accerr = true → t.accerr = true) := by
  rcases readStep_next h with ⟨v, rfl | rfl⟩
  · exact ⟨⟨rfl, rfl, rfl⟩, id⟩
  · exact ⟨⟨rfl, rfl, rfl⟩, fun _ => rfl⟩

theorem writeCtrl_hostState {v : Word32} {s t : State} (h : writeCtrl v s = .ok t) :
    LockedKept s t ∧ (s.accerr = true → t.accerr = true) := by
  rcases writeCtrl_cases h with ⟨-, rfl⟩ | ⟨b, rfl⟩ | ⟨b, w, -, rfl⟩
  · exact ⟨⟨rfl, rfl, rfl⟩, id⟩
  · exact ⟨⟨rfl, rfl, rfl⟩, fun ha => by simp [ha]⟩
  · exact ⟨⟨rfl, rfl, rfl⟩, fun ha => by simp [ha]⟩

theorem writeEffect_lockedKept {off : Offset} {v : Word32} {s t : State} (h : WriteEffect off v s t)
    (hbusy : s.busy = true) : LockedKept s t := by
  cases h with
  | ctrl _ ht => exact (writeCtrl_hostState ht).1
  | ignored | refused | status => exact ⟨rfl, rfl, rfl⟩
  | entry idle | cmd idle | w _ _ idle | s _ _ idle => rw [idle] at hbusy; cases hbusy

/-- Only a write of 1 to its bit of STATUS clears ACCERR. -/
theorem writeEffect_clears_accerr {off : Offset} {v : Word32} {s t : State} (h : WriteEffect off v s t)
    (hset : s.accerr = true) (hclear : t.accerr = false) : locate off = .status ∧ v.getLsbD 2 = true := by
  cases h with
  | status hloc => exact ⟨hloc, by simpa [hset] using hclear⟩
  | ctrl _ ht => rw [(writeCtrl_hostState ht).2 hset] at hclear; cases hclear
  | refused => cases hclear
  | ignored | entry | cmd | w | s => exact absurd (hset.symm.trans hclear) Bool.noConfusion

/-- The transaction that clears ACCERR is a whole aligned write to STATUS, since another is refused. -/
theorem writeStep_clears_accerr {n : Nat} {off : Offset} {v : Word32} {s t : State}
    (h : writeStep n off v s = .next t) (hset : s.accerr = true) (hclear : t.accerr = false) :
    n = 4 ∧ off = 0x0008 ∧ v.getLsbD 2 = true := by
  by_cases hok : accessOk n off = true
  · obtain ⟨hn, haligned⟩ := accessOk_iff.1 hok
    obtain ⟨hloc, hbit⟩ := writeEffect_clears_accerr (writeStep_effect h) hset hclear
    exact ⟨hn, eq_status_offset haligned hloc, hbit⟩
  · rw [writeStep, busWrite_refused v (.access (Bool.eq_false_iff.2 hok))] at h
    cases h
    cases hclear

/-- Settles O52: no step but reset writes the locked storage in a run, and one write alone clears ACCERR. -/
theorem storageLockedWhileBusyAndAccerrSticky : Obligations.StorageLockedWhileBusyAndAccerrSticky := by
  intro s t hr h
  obtain ⟨l, ⟨-, hc⟩ | ⟨n, off, -, hread⟩ | ⟨n, off, v, hs, hwrite⟩ | ⟨hs, -⟩⟩ := step_next h
  · obtain ⟨hkept, hacc⟩ := coreStep_hostState hc
    exact ⟨fun _ => hkept, fun hset hclear => absurd (hacc.trans hset) (by simp [hclear])⟩
  · obtain ⟨hkept, hacc⟩ := readStep_hostState hread
    exact ⟨fun _ => hkept, fun hset hclear => absurd (hacc hset) (by simp [hclear])⟩
  · have hkept := writeEffect_lockedKept (writeStep_effect hwrite)
    refine ⟨hkept, fun hset hclear => ?_⟩
    obtain ⟨rfl, rfl, hbit⟩ := writeStep_clears_accerr hwrite hset hclear
    exact ⟨v, l, hs, hbit⟩
  · exact absurd hs (hr l)

end Sys2Proof.Proofs
end

section
/-! SUPPORT. The arrays on the bus while idle (spec/20_memory.md R73 to R75): W and S by bus words, and the command
entries. -/

namespace Sys2Proof.Proofs

open Sys2Proof Sys2Proof.Machine Sys2Proof.Laws

/-! ## The offsets of the bus words -/

theorem toNat_offset {x : Nat} (h : x < 65536) : (BitVec.ofNat 16 x).toNat = x := by
  rw [BitVec.toNat_ofNat, Nat.mod_eq_of_lt h]

theorem accessOk_offset {x : Nat} (h : x < 65536) (haligned : x % 4 = 0) : accessOk 4 (BitVec.ofNat 16 x) = true :=
  accessOk_iff.2 ⟨rfl, by rw [toNat_offset h]; exact haligned⟩

theorem locate_w_offset {i j : Nat} (hi : i < 256) (hj : j < 12) :
    locate (BitVec.ofNat 16 (0x4000 + 48 * i + 4 * j)) = .w i j := by
  have hoff := toNat_offset (x := 0x4000 + 48 * i + 4 * j) (by omega)
  rw [locate_eq_w (by omega) (by omega), hoff]
  congr 1 <;> omega

theorem locate_s_offset {k j : Nat} (hk : k < 4) (hj : j < 32) :
    locate (BitVec.ofNat 16 (0x8000 + 128 * k + 4 * j)) = .s k j := by
  have hoff := toNat_offset (x := 0x8000 + 128 * k + 4 * j) (by omega)
  rw [locate_eq_s (by omega) (by omega), hoff]
  congr 1 <;> omega

theorem locate_cmd_offset {a : Nat} (ha : a < 256) : locate (BitVec.ofNat 16 (0x1000 + 4 * a)) = .cmd a := by
  have hoff := toNat_offset (x := 0x1000 + 4 * a) (by omega)
  rw [locate_eq_cmd (by omega) (by omega), hoff]
  congr 1
  omega

/-! ## Served accesses to the arrays -/

/-- The scalar register as the bus indexes it. -/
theorem getD_sc (s : State) (k : SIdx) : s.sc[k.toNat]?.getD 0 = s.readS k := by
  rw [Vector.getElem?_eq_getElem k.isLt]
  rfl

section Served

variable {n : Nat} {off : Offset} {s : State} {rest : List Action} (hok : accessOk n off = true)
  (hidle : s.busy = false)
include hok hidle

theorem step_read_w_idle {i j : Nat} (hloc : locate off = .w i j) (hs : s.script = .read n off :: rest) :
    step s = .next { s with script := rest, rdata := some (getLane (s.readW i) j) } :=
  step_read_served hs (by simp [busRead, State.readW, hok, hidle, hloc])

theorem step_write_w_idle {i j : Nat} {v : Word32} (hloc : locate off = .w i j)
    (hs : s.script = .write n off v :: rest) : step s = .next ({ s with script := rest }.pokeW i j v) :=
  step_write_done hs (by simp [busWrite, hok, hidle, hloc])

theorem step_read_s_idle {k : SIdx} {j : Nat} (hloc : locate off = .s k.toNat j)
    (hs : s.script = .read n off :: rest) :
    step s = .next { s with script := rest, rdata := some (getLane (s.readS k) j) } := by
  rw [← getD_sc]
  exact step_read_served hs (by simp [busRead, hok, hidle, hloc])

theorem step_write_s_idle {k j : Nat} {v : Word32} (hloc : locate off = .s k j)
    (hs : s.script = .write n off v :: rest) : step s = .next ({ s with script := rest }.pokeS k j v) :=
  step_write_done hs (by simp [busWrite, hok, hidle, hloc])

theorem step_read_cmd_written {a : Nat} {w : Word32} (hloc : locate off = .cmd a)
    (hs : s.script = .read n off :: rest) (hw : s.cmd.read a = some w) :
    step s = .next { s with script := rest, rdata := some w } :=
  step_read_served hs (by simp [busRead, hok, hidle, hloc, hw])

theorem step_read_cmd_unwritten {a : Nat} (hloc : locate off = .cmd a) (hs : s.script = .read n off :: rest)
    (hw : s.cmd.read a = none) : step s = .fault (.uninit (.cmd a)) := by
  simp [step_read hs, readStep, busRead, hok, hidle, hloc, hw]

theorem step_write_cmd_idle {a : Nat} {v : Word32} (hloc : locate off = .cmd a)
    (hs : s.script = .write n off v :: rest) :
    step s = .next { s with script := rest, cmd := s.cmd.write a v } :=
  step_write_done hs (by simp [busWrite, hok, hidle, hloc])

end Served

/-! ## Read after a bus write -/

theorem readW_pokeW_self (s : State) {i : Nat} (j : Nat) (v : Word32) (hi : i < 256) :
    (s.pokeW i j v).readW i = setLane (s.readW i) j v := by simp [State.readW, State.pokeW, hi]

theorem readW_pokeW_other (s : State) {i k : Nat} (j : Nat) (v : Word32) (h : k ≠ i) :
    (s.pokeW i j v).readW k = s.readW k := by simp [State.readW, State.pokeW, h.symm]

theorem readS_pokeS_self (s : State) (k : SIdx) (j : Nat) (v : Word32) :
    (s.pokeS k.toNat j v).readS k = setLane (s.readS k) j v := by
  rw [← getD_sc s k]
  simp [State.readS, State.pokeS]

theorem readS_pokeS_other (s : State) {k l : SIdx} (j : Nat) (v : Word32) (h : l ≠ k) :
    (s.pokeS k.toNat j v).readS l = s.readS l := by
  have hne : k.toNat ≠ l.toNat := fun he => h (BitVec.eq_of_toNat_eq he.symm)
  simp [State.readS, State.pokeS, hne]

/-- The bits a bus read returns (R73, R74). -/
theorem getLsbD_getLane_of_lt {n : Nat} (x : BitVec n) (j : Nat) {m : Nat} (hm : m < 32) :
    (getLane x j).getLsbD m = x.getLsbD (n - 32 - 32 * j + m) := by
  rw [getLsbD_getLane, decide_eq_true hm, Bool.true_and, laneLow]

/-- The bits after a bus write, with the range of the bus word as R73 and R74 write it, from n - 1 - 32j down. -/
theorem getLsbD_setLane_range {n : Nat} (x : BitVec n) {j : Nat} (v : Word32) (hj : 32 * j + 32 ≤ n) {m : Nat}
    (hm : m < n) :
    (setLane x j v).getLsbD m =
      if n - 32 - 32 * j ≤ m ∧ m ≤ n - 1 - 32 * j then v.getLsbD (m - (n - 32 - 32 * j)) else x.getLsbD m := by
  have hrange : m < n - 32 - 32 * j + 32 ↔ m ≤ n - 1 - 32 * j := by omega
  exact (getLsbD_setLane x j v m hm).trans (if_congr (and_congr_right' hrange) rfl rfl)

/-! ## W, S and the command entries -/

/-- Settles O54: a bus word of W is served as its lane of the word. -/
theorem wordFileOnTheBus : Obligations.WordFileOnTheBus := by
  intro s i j rest hidle hi hj
  have hok := accessOk_offset (x := 0x4000 + 48 * i + 4 * j) (by omega) (by omega)
  have hloc := locate_w_offset hi hj
  refine ⟨fun hs => ⟨_, step_read_w_idle hok hidle hloc hs, fun m hm => getLsbD_getLane_of_lt _ j hm⟩, fun v hs => ?_⟩
  refine ⟨_, step_write_w_idle hok hidle hloc hs, rfl, fun m hm => ?_, fun k hk => readW_pokeW_other _ j v hk⟩
  rw [readW_pokeW_self _ j v hi]
  exact getLsbD_setLane_range _ v (by omega) hm

/-- Settles O55: a bus word of S is served as its lane of the register, and a command entry as a whole. -/
theorem scalarsAndCommandsOnTheBus : Obligations.ScalarsAndCommandsOnTheBus := by
  constructor
  · intro s k j rest hidle hj
    have hk : k.toNat < 4 := k.isLt
    have hok := accessOk_offset (x := 0x8000 + 128 * k.toNat + 4 * j) (by omega) (by omega)
    have hloc := locate_s_offset hk hj
    refine ⟨fun hs => ⟨_, step_read_s_idle hok hidle hloc hs, fun m hm => getLsbD_getLane_of_lt _ j hm⟩,
      fun v hs => ?_⟩
    refine ⟨_, step_write_s_idle hok hidle hloc hs, rfl, fun m hm => ?_, fun l hl => readS_pokeS_other _ j v hl⟩
    rw [readS_pokeS_self]
    exact getLsbD_setLane_range _ v (by omega) hm
  · intro s a rest hidle ha
    have hok := accessOk_offset (x := 0x1000 + 4 * a) (by omega) (by omega)
    have hloc := locate_cmd_offset ha
    exact ⟨fun _ hs hw => step_read_cmd_written hok hidle hloc hs hw,
      fun hs hw => step_read_cmd_unwritten hok hidle hloc hs hw,
      fun v hs => ⟨_, step_write_cmd_idle hok hidle hloc hs, rfl, memory_read_write_self s.cmd a v,
        fun _ hc => memory_read_write_other s.cmd v hc⟩⟩

end Sys2Proof.Proofs
end

section
/-! SUPPORT. Encoding and decoding (spec/30_encoding.md R100 to R108, R111): each answer of `decode` as an `↔`, what the
masks of R104 demand field by field, and the opcode map of R103 beside the table's rows. -/

namespace Sys2Proof.Proofs

open Sys2Proof Sys2Proof.Machine Sys2Proof.Laws

/-! ## The answers of the decoder (R108) -/

theorem decode_of_formOf_none {w : Word32} (h : formOf (opOf w) = none) : decode w = .error .illegalOpcode := by
  rw [decode, h]

theorem decode_of_formOf_some {w : Word32} {f : Form} (h : formOf (opOf w) = some f) :
    decode w =
      if w &&& f.mask = packFields (opOf w) 0#8 0#8 0#8 then
        (f.build (rdOf w) (rs1Of w) (rs2Of w)).elim (.error .reservedField) .ok
      else .error .reservedField := by
  simp only [decode, h]
  cases f.build (rdOf w) (rs1Of w) (rs2Of w) <;> rfl

theorem decode_eq_ok_iff {w : Word32} {i : Instr} :
    decode w = .ok i ↔ ∃ f, formOf (opOf w) = some f ∧ w &&& f.mask = packFields (opOf w) 0#8 0#8 0#8 ∧
      f.build (rdOf w) (rs1Of w) (rs2Of w) = some i := by
  cases hf : formOf (opOf w) with
  | none => simp [decode_of_formOf_none hf]
  | some f =>
    rw [decode_of_formOf_some hf]
    cases hb : f.build (rdOf w) (rs1Of w) (rs2Of w) <;> split_ifs with hm <;> simp [hm, hb]

theorem decode_eq_illegalOpcode_iff {w : Word32} : decode w = .error .illegalOpcode ↔ formOf (opOf w) = none := by
  cases hf : formOf (opOf w) with
  | none => simp [decode_of_formOf_none hf]
  | some f =>
    rw [decode_of_formOf_some hf]
    cases f.build (rdOf w) (rs1Of w) (rs2Of w) <;> split_ifs <;> simp

theorem decode_eq_reservedField_iff {w : Word32} :
    decode w = .error .reservedField ↔ ∃ f, formOf (opOf w) = some f ∧
      (w &&& f.mask ≠ packFields (opOf w) 0#8 0#8 0#8 ∨ f.build (rdOf w) (rs1Of w) (rs2Of w) = none) := by
  cases hf : formOf (opOf w) with
  | none => simp [decode_of_formOf_none hf]
  | some f =>
    rw [decode_of_formOf_some hf]
    cases hb : f.build (rdOf w) (rs1Of w) (rs2Of w) <;> split_ifs with hm <;> simp [hm, hb]

/-! ## The fields a form leaves unused (R101, R104) -/

/-- What is left of the mask of R104 once the opcode matches: the unused fields are 0, and so are the bits above a mode
or a scalar index. -/
def ReservedZero (f : Form) (rd a b : BitVec 8) : Prop :=
  match f with
  | .noOperands _ => rd = 0 ∧ a = 0 ∧ b = 0
  | .threeW _ | .movCount => True
  | .twoW _ => b = 0
  | .withMode _ => b &&& 0xFE = 0
  | .withScalar _ => b &&& 0xFC = 0
  | .ldcSelector => a = 0

theorem packFields_eq_iff {op rd a b op' rd' a' b' : BitVec 8} :
    packFields op rd a b = packFields op' rd' a' b' ↔ op = op' ∧ rd = rd' ∧ a = a' ∧ b = b' :=
  ⟨packFields_inj, by rintro ⟨rfl, rfl, rfl, rfl⟩; rfl⟩

theorem mask_matches_iff (f : Form) (op rd a b : BitVec 8) :
    packFields op rd a b &&& f.mask = packFields op 0#8 0#8 0#8 ↔ ReservedZero f rd a b := by
  have hff (x : BitVec 8) : x &&& 255#8 = x := BitVec.and_allOnes
  cases f <;>
    simp [Form.mask, ReservedZero, mask_ffffffff, mask_ff000000, mask_ff0000ff, mask_ff0000fe, mask_ff0000fc,
      mask_ff00ff00, packFields_and, packFields_eq_iff, hff]

/-- The fields of a form, packed under its opcode, decode to the command they make. -/
theorem decode_packFields {op rd a b : BitVec 8} {f : Form} {i : Instr} (hf : formOf op = some f)
    (hz : ReservedZero f rd a b) (hb : f.build rd a b = some i) : decode (packFields op rd a b) = .ok i := by
  rw [decode_eq_ok_iff, opOf_packFields, rdOf_packFields, rs1Of_packFields, rs2Of_packFields]
  exact ⟨f, hf, (mask_matches_iff f op rd a b).2 hz, hb⟩

/-! ## The codes in rs2: constants, modes and scalar indices (R135, R149, R260) -/

theorem ldcConst_ofCode_code (k : LdcConst) : LdcConst.ofCode k.code = some k := by cases k <;> rfl

theorem invMode_code_reserved (mode : InvMode) : mode.code &&& 0xFE = 0 := by cases mode <;> rfl

theorem invMode_ofField_code (mode : InvMode) : InvMode.ofField mode.code = mode := by cases mode <;> rfl

theorem scalarCode_reserved : ∀ k : SIdx, scalarCode k &&& 0xFC = 0 := by decide

theorem scalarOfField_scalarCode : ∀ k : SIdx, scalarOfField (scalarCode k) = k := by decide

theorem code_of_ldcConst_ofCode {b : BitVec 8} {k : LdcConst} (h : LdcConst.ofCode b = some k) : k.code = b := by
  unfold LdcConst.ofCode at h
  split at h <;> cases h <;> exact BitVec.eq_of_toNat_eq (Eq.symm ‹_›)

theorem ldcConst_ofCode_eq_none_iff : ∀ b : BitVec 8, LdcConst.ofCode b = none ↔ ¬b.toNat ≤ 5 := by decide

theorem code_invMode_ofField : ∀ b : BitVec 8, b &&& 0xFE = 0 → (InvMode.ofField b).code = b := by decide

theorem scalarCode_scalarOfField : ∀ b : BitVec 8, b &&& 0xFC = 0 → scalarCode (scalarOfField b) = b := by decide

theorem build_withMode_code (c : WIdx → WIdx → InvMode → Instr) (rd a : WIdx) (mode : InvMode) :
    (Form.withMode c).build rd a mode.code = some (c rd a mode) := by rw [Form.build, invMode_ofField_code]

theorem build_withScalar_code (c : WIdx → WIdx → SIdx → Instr) (rd a : WIdx) (k : SIdx) :
    (Form.withScalar c).build rd a (scalarCode k) = some (c rd a k) := by rw [Form.build, scalarOfField_scalarCode]

/-! ## Decoding a command's word -/

/-- A command's word decodes to the command: its opcode names its form, and the form takes the fields back. -/
theorem decode_encode : ∀ {i : Instr}, i.wellFormed = true → decode (encode i) = .ok i
  | .nop, _ | .halt, _ => decode_packFields rfl ⟨rfl, rfl, rfl⟩ rfl
  | .mov _ _ _, hn => decode_packFields (f := .movCount) rfl trivial (if_pos hn)
  | .ldc rd k, _ =>
    decode_packFields (f := .ldcSelector) rfl rfl (congrArg (Option.map (Instr.ldc rd)) (ldcConst_ofCode_code k))
  | .fadd .., _ | .fsub .., _ | .fmul .., _ | .f2add .., _ | .f2sub .., _ | .f2mul .., _ | .f6add .., _ | .f6sub .., _
  | .f6mul .., _ | .f6mul01 .., _ | .f6mul1 .., _ | .f12add .., _ | .f12sub .., _ | .f12mul .., _ | .f12mul014 .., _
  | .g2add .., _ | .g2addm .., _ | .g2sub .., _ => decode_packFields rfl trivial rfl
  | .fneg .., _ | .fdbl .., _ | .fsqr .., _ | .tomont .., _ | .frommont .., _ | .f2neg .., _ | .f2dbl .., _
  | .f2sqr .., _ | .f2mulnr .., _ | .f2conj .., _ | .f6neg .., _ | .f6sqr .., _ | .f6mulnr .., _ | .f12sqr .., _
  | .f12conj .., _ | .g2dbl .., _ | .g2neg .., _ => decode_packFields rfl rfl rfl
  | .finv _ _ mode, _ | .f2inv _ _ mode, _ | .f6inv _ _ mode, _ | .f12inv _ _ mode, _ =>
    decode_packFields rfl (invMode_code_reserved mode) (build_withMode_code _ _ _ mode)
  | .fexp _ _ k, _ | .g2smul _ _ k, _ | .g2smulw _ _ k, _ =>
    decode_packFields rfl (scalarCode_reserved k) (build_withScalar_code _ _ _ k)

/-! ## The word of a decoded command -/

/-- The commands a form makes are well-formed, and their words carry this opcode and the fields in its places (R103). -/
def EncodesUnder (op : BitVec 8) : Form → Prop
  | .noOperands i => encode i = packFields op 0 0 0 ∧ i.wellFormed = true
  | .threeW c => ∀ rd a b, encode (c rd a b) = packFields op rd a b ∧ (c rd a b).wellFormed = true
  | .twoW c => ∀ rd a, encode (c rd a) = packFields op rd a 0 ∧ (c rd a).wellFormed = true
  | .withMode c => ∀ rd a mode, encode (c rd a mode) = packFields op rd a mode.code ∧ (c rd a mode).wellFormed = true
  | .withScalar c => ∀ rd a k, encode (c rd a k) = packFields op rd a (scalarCode k) ∧ (c rd a k).wellFormed = true
  | .movCount => op = 0x02
  | .ldcSelector => op = 0x03

theorem formOf_encodesUnder {op : BitVec 8} {f : Form} (h : formOf op = some f) : EncodesUnder op f := by
  have ofNat_of_toNat {n : Nat} (hn : op.toNat = n) : op = BitVec.ofNat 8 n := by simp [← hn]
  unfold formOf at h
  split at h <;> cases h <;> rw [ofNat_of_toNat ‹_›] <;> simp [EncodesUnder, encode, Instr.opcode, Instr.wellFormed]

theorem encode_of_build {op rd a b : BitVec 8} {f : Form} {i : Instr} (hf : EncodesUnder op f)
    (hz : ReservedZero f rd a b) (hb : f.build rd a b = some i) :
    encode i = packFields op rd a b ∧ i.wellFormed = true := by
  cases f with
  | noOperands j =>
    obtain ⟨rfl, rfl, rfl⟩ := hz
    cases hb
    exact hf
  | threeW c =>
    cases hb
    exact hf rd a b
  | twoW c =>
    cases hz
    cases hb
    exact hf rd a
  | withMode c =>
    cases hb
    have h := hf rd a (InvMode.ofField b)
    rwa [code_invMode_ofField b hz] at h
  | withScalar c =>
    cases hb
    have h := hf rd a (scalarOfField b)
    rwa [scalarCode_scalarOfField b hz] at h
  | movCount =>
    cases hf
    obtain ⟨hn, hi⟩ := Option.ite_none_right_eq_some.1 hb
    cases hi
    exact ⟨rfl, hn⟩
  | ldcSelector =>
    cases hf
    cases hz
    obtain ⟨k, hk, rfl⟩ := Option.map_eq_some_iff.1 hb
    exact ⟨congrArg (packFields 0x03 rd 0) (code_of_ldcConst_ofCode hk), rfl⟩

/-- A word that decodes is the word of the command it decodes to, which is well-formed. -/
theorem encode_of_decode {w : Word32} {i : Instr} (h : decode w = .ok i) : encode i = w ∧ i.wellFormed = true := by
  obtain ⟨f, hf, hmask, hb⟩ := decode_eq_ok_iff.1 h
  have hz : ReservedZero f (rdOf w) (rs1Of w) (rs2Of w) := by
    rwa [← mask_matches_iff f (opOf w), packFields_fields]
  have henc := encode_of_build (formOf_encodesUnder hf) hz hb
  rwa [packFields_fields] at henc

/-! ## The rows of the opcode table (R103, R104) -/

/-- The table's rows for an opcode: its form's mask, or none. -/
theorem opcodeRows_filter : ∀ op : BitVec 8,
    opcodeRows.filter (fun row => row.1 = op.toNat) = ((formOf op).map fun f => (op.toNat, f.mask)).toList := by
  decide

/-- A row for an opcode is the one that its form makes. -/
theorem exists_row_iff {op : BitVec 8} {P : Nat × Word32 → Prop} :
    (∃ row ∈ opcodeRows, row.1 = op.toNat ∧ P row) ↔ ∃ f, formOf op = some f ∧ P (op.toNat, f.mask) := by
  have hmem (row : Nat × Word32) :
      row ∈ opcodeRows ∧ row.1 = op.toNat ↔ ∃ f, formOf op = some f ∧ (op.toNat, f.mask) = row := by
    have h := congrArg (row ∈ ·) (opcodeRows_filter op)
    simpa using h
  simp only [← and_assoc, hmem]
  constructor
  · rintro ⟨_, ⟨f, hf, rfl⟩, hP⟩
    exact ⟨f, hf, hP⟩
  · rintro ⟨f, hf, hP⟩
    exact ⟨_, ⟨f, hf, rfl⟩, hP⟩

theorem formOf_eq_none_iff {op : BitVec 8} : formOf op = none ↔ ∀ row ∈ opcodeRows, row.1 ≠ op.toNat := by
  have h : opcodeRows.filter (fun row => row.1 = op.toNat) = [] ↔ formOf op = none := by
    rw [opcodeRows_filter]
    simp
  rw [← h]
  simp

theorem formOf_eq_movCount_iff {op : BitVec 8} : formOf op = some .movCount ↔ op.toNat = 0x02 :=
  ⟨fun h => congrArg BitVec.toNat (formOf_encodesUnder h : op = 0x02),
    fun h => by rw [BitVec.eq_of_toNat_eq (y := 0x02) h]; rfl⟩

theorem formOf_eq_ldcSelector_iff {op : BitVec 8} : formOf op = some .ldcSelector ↔ op.toNat = 0x03 :=
  ⟨fun h => congrArg BitVec.toNat (formOf_encodesUnder h : op = 0x03),
    fun h => by rw [BitVec.eq_of_toNat_eq (y := 0x03) h]; rfl⟩

/-! ## The fields of a word as numbers -/

theorem toNat_opOf (w : Word32) : (opOf w).toNat = w.toNat / 2 ^ 24 := by
  have hw := w.isLt
  rw [opOf, BitVec.extractLsb'_toNat, Nat.shiftRight_eq_div_pow]
  exact Nat.mod_eq_of_lt (by omega)

theorem toNat_rs2Of (w : Word32) : (rs2Of w).toNat = w.toNat % 2 ^ 8 := BitVec.extractLsb'_toNat 0 8 w

theorem packFields_op_eq_ofNat : ∀ op : BitVec 8, packFields op 0#8 0#8 0#8 = BitVec.ofNat 32 (op.toNat * 2 ^ 24) := by
  decide

/-- The fields make no command only where MOV's count is not 1 to 12 or LDC's selector is above 5. -/
theorem build_eq_none_iff {op rd a b : BitVec 8} {f : Form} (hf : formOf op = some f) :
    f.build rd a b = none ↔
      (op.toNat = 0x02 ∧ ¬(1 ≤ b.toNat ∧ b.toNat ≤ 12)) ∨ (op.toNat = 0x03 ∧ ¬b.toNat ≤ 5) := by
  rw [← formOf_eq_movCount_iff, ← formOf_eq_ldcSelector_iff, hf, ← ldcConst_ofCode_eq_none_iff]
  cases f <;> simp [Form.build, movCountOk]

/-! ## The statements -/

/-- Settles O1: every command's word decodes to that command. -/
theorem decodeOfEncodeIsTheCommand : Obligations.DecodeOfEncodeIsTheCommand := fun _ => decode_encode

/-- Settles O2: decoding is the procedure of R108 over the rows of the opcode table. -/
theorem decodeFollowsTheOpcodeTable : Obligations.DecodeFollowsTheOpcodeTable := by
  intro w
  rw [← toNat_opOf, ← toNat_rs2Of]
  refine ⟨?_, ?_, fun _ => encode_of_decode⟩
  · rw [decode_eq_illegalOpcode_iff, formOf_eq_none_iff]
  · refine decode_eq_reservedField_iff.trans (Iff.trans ?_ exists_row_iff.symm)
    refine exists_congr fun f => and_congr_right fun hf => ?_
    rw [packFields_op_eq_ofNat, build_eq_none_iff hf]

/-- Settles O3: each of the twelve words is evaluated. -/
theorem specWordsDecodeToTheirCommands : Obligations.SpecWordsDecodeToTheirCommands := by
  unfold Obligations.SpecWordsDecodeToTheirCommands
  decide

end Sys2Proof.Proofs
end

section
/-! SUPPORT. The cycle of R130: what a core step does with the word it fetches, what a command leaves unchanged, and how
the check and the result of a command make its `CommandRule`. -/

namespace Sys2Proof.Proofs

open Sys2Proof Sys2Proof.Machine Sys2Proof.Laws

/-! ## A core step with a word at pc (R130) -/

theorem coreStep_decoded {s : State} {w : Word32} {i : Instr} (hbusy : s.busy = true) (hw : s.fetch = some w)
    (hd : decode w = .ok i) : coreStep s = exec i s := by simp [coreStep, hbusy, hw, hd]

theorem coreStep_undecodable {s : State} {w : Word32} {e : DecodeError} (hbusy : s.busy = true)
    (hw : s.fetch = some w) (hd : decode w = .error e) :
    coreStep s = .next (endError (ErrCode.ofDecode e) s.pc w s) := by simp [coreStep, hbusy, hw, hd]

/-- Settles O4: the step is the core's, and the schedule is no part of what the core fetches. -/
theorem stepExecutesTheFetchedCommand : Obligations.StepExecutesTheFetchedCommand := by
  intro s w i hbusy hw hd
  exact ⟨fun hs => (step_unscheduled hs).trans (coreStep_decoded hbusy hw hd),
    fun rest hs => (step_core hs).trans (coreStep_decoded (s := { s with script := rest }) hbusy hw hd)⟩

/-- Settles O5: a decoding error is recorded by `endError`, which leaves pc at the word's address. -/
theorem undecodableWordEndsTheRun : Obligations.UndecodableWordEndsTheRun := by
  intro s w e hbusy hs hw hd
  rw [step_unscheduled hs, coreStep_undecodable hbusy hw hd]
  cases e <;> rfl

/-! ## The frame of a command (R130, R304, R305) -/

/-- t differs from s at most in W, its marks, pc and the record of the run's end. -/
def CommandFrame (s t : State) : Prop :=
  t = { s with
    w := t.w, wInit := t.wInit, pc := t.pc, busy := t.busy, done := t.done, errcode := t.errcode, errpc := t.errpc,
    errcmd := t.errcmd }

/-- Whatever keeps the frame of every state keeps it after the writes of a result too. -/
theorem commandFrame_writeWords {f : State → State} (hf : ∀ u, CommandFrame u (f u)) (s : State) (b : Nat)
    (ws : List Word) : CommandFrame s (f (s.writeWords b ws)) := by
  have h := hf (s.writeWords b ws)
  rw [writeWords_frame] at h ⊢
  exact h

theorem exec_commandFrame {i : Instr} {s t : State} (h : exec i s = .next t) : CommandFrame s t := by
  rcases exec_cases h with ⟨-, rfl⟩ | ⟨e, -, rfl⟩ | ⟨rd, ws, -, -, ⟨-, rfl⟩ | ⟨-, rfl⟩⟩
  · rfl
  · rfl
  · exact commandFrame_writeWords (f := endError .pcOverflow 255 (encode i)) (fun _ => rfl) s _ ws
  · exact commandFrame_writeWords (f := fun u => { u with pc := s.pc + 1 }) (fun _ => rfl) s _ ws

/-- A result leaves W and its marks as they were outside the command's destination. -/
theorem result_outside_dest {i : Instr} {rd : WIdx} {ws : List Word} {k : Nat} (s : State)
    (hd : destOf i = some (rd, ws.length) ∨ (i = .nop ∧ ws = []))
    (hk : ∀ rd n, destOf i = some (rd, n) → k < rd.toNat ∨ rd.toNat + n ≤ k) :
    (s.writeWords rd.toNat ws).readW k = s.readW k ∧ (s.writeWords rd.toNat ws).wInit[k]? = s.wInit[k]? := by
  rcases hd with hd | ⟨-, rfl⟩
  · exact readW_writeWords_outside s rd.toNat k ws (hk rd ws.length hd)
  · exact ⟨rfl, rfl⟩

theorem exec_outside_dest {i : Instr} {s t : State} {k : Nat} (h : exec i s = .next t)
    (hk : ∀ rd n, destOf i = some (rd, n) → k < rd.toNat ∨ rd.toNat + n ≤ k) :
    t.readW k = s.readW k ∧ t.wInit[k]? = s.wInit[k]? := by
  rcases exec_cases h with ⟨-, rfl⟩ | ⟨e, -, rfl⟩ | ⟨rd, ws, -, hd, ⟨-, rfl⟩ | ⟨-, rfl⟩⟩
  · exact ⟨rfl, rfl⟩
  · exact ⟨rfl, rfl⟩
  · exact result_outside_dest s hd hk
  · exact result_outside_dest s hd hk

/-- Settles O11, from the four ways a command can leave the block. -/
theorem commandsChangeNothingElse : Obligations.CommandsChangeNothingElse :=
  fun _ _ _ h => ⟨exec_commandFrame h, fun _ => exec_outside_dest h⟩

/-! ## The rule of a command: its errors in the order of R303, then its result -/

theorem check_outOfRange {i : Instr} {s : State} (hwf : i.wellFormed = true) (hr : ¬rangesOk i = true) :
    check i s = some .operandRange := by simp [check, hwf, hr]

theorem check_noncanonical {i : Instr} {s : State} (hwf : i.wellFormed = true) (hr : rangesOk i = true)
    (hc : ¬sourcesCanonical i s = true) : check i s = some .noncanonical := by simp [check, hwf, hr, hc]

/-- HALT passes every check. -/
theorem check_halt (s : State) : check .halt s = none := rfl

/-- An error that the check finds is recorded and nothing is written (R304, R305). -/
theorem raises_of_check {i : Instr} {e : ErrCode} {s : State} (hc : check i s = some e) : Raises i e s := by
  have hi : i ≠ .halt := by
    rintro rfl
    rw [check_halt] at hc
    cases hc
  obtain ⟨rd, ws, he, -⟩ := exec_eq_command i s hi
  rw [Raises, he, command, hc]
  rfl

/-- A command that passes the check below address 255 completes with its result. -/
theorem completes_of_check {i : Instr} {rd : WIdx} {ws : List Word} {s : State}
    (he : exec i s = command i rd ws s) (hd : destOf i = some (rd, ws.length)) (hc : check i s = none)
    (hpc : s.pc ≠ 255) : Completes i rd ws s := by
  refine ⟨{ s.writeWords rd.toNat ws with pc := s.pc + 1 }, ?_, ?_, ?_⟩
  · rcases command_cases i rd ws s with ⟨e, hce, -⟩ | ⟨-, hlast, -⟩ | ⟨-, -, hn⟩
    · rw [hc] at hce; cases hce
    · exact absurd hlast hpc
    · exact he.trans hn
  · exact writeWords_writesWords s rd.toNat ws (dest_fits hc hd)
  · exact congrArg (fun u : State => { u with pc := s.pc + 1 }) (writeWords_frame s rd.toNat ws)

/-- A command's word has its opcode on top (R100, R103). -/
theorem opOf_encode (i : Instr) : opOf (encode i) = i.opcode := by cases i <;> exact opOf_packFields _ _ _ _

/-- The rule of a well-formed command that is the command cycle: what `fits` and `canon` say is what the check finds. -/
theorem commandRule_of_command {i : Instr} {fits canon : Prop} {rd : WIdx} {ws : List Word} {s : State}
    (he : exec i s = command i rd ws s) (hd : destOf i = some (rd, ws.length)) (hwf : i.wellFormed = true)
    (hfits : fits ↔ rangesOk i = true) (hcanon : canon ↔ sourcesCanonical i s = true) :
    CommandRule i.opcode.toNat i fits canon rd ws s := by
  refine ⟨?opcode, fun hr => ?range, fun hr hc => ?noncanonical, fun hr hc hpc => ?result⟩
  case opcode => rw [← toNat_opOf, opOf_encode]
  case range => exact raises_of_check (check_outOfRange hwf (mt hfits.2 hr))
  case noncanonical => exact raises_of_check (check_noncanonical hwf (hfits.1 hr) (mt hcanon.2 hc))
  case result =>
    exact completes_of_check he hd ((check_eq_none_iff i s).2 ⟨hwf, hfits.1 hr, hcanon.1 hc⟩) hpc

end Sys2Proof.Proofs
end

section
/-! SUPPORT. NOP, HALT, MOV and LDC (spec/40_control.md R132 to R135): the words they refuse, their ranges and their
results. -/

namespace Sys2Proof.Proofs

open Sys2Proof Sys2Proof.Machine Sys2Proof.Laws

/-! ## Words with a reserved field (R104, R108) -/

/-- Fields that the form's mask refuses, or that make no command, are a RESERVED_FIELD error. -/
theorem decode_packFields_reserved {op rd a b : BitVec 8} {f : Form} (hf : formOf op = some f)
    (h : ¬ReservedZero f rd a b ∨ f.build rd a b = none) :
    decode (packFields op rd a b) = .error .reservedField := by
  rw [decode_eq_reservedField_iff, opOf_packFields, rdOf_packFields, rs1Of_packFields, rs2Of_packFields]
  exact ⟨f, hf, h.imp_left (mt (mask_matches_iff f op rd a b).1)⟩

/-- A command without operands has one word. -/
theorem decode_noOperands_reserved {w : Word32} {op : BitVec 8} {i : Instr} (hf : formOf op = some (.noOperands i))
    (hop : w.toNat / 2 ^ 24 = op.toNat) (hw : w ≠ packFields op 0 0 0) : decode w = .error .reservedField := by
  have hopOf : opOf w = op := BitVec.eq_of_toNat_eq ((toNat_opOf w).trans hop)
  have hfields : packFields op (rdOf w) (rs1Of w) (rs2Of w) = w := hopOf ▸ packFields_fields w
  rw [← hfields]
  refine decode_packFields_reserved hf (.inl ?_)
  rintro ⟨hrd, ha, hb⟩
  rw [hrd, ha, hb] at hfields
  exact hw hfields.symm

/-! ## NOP and HALT -/

/-- NOP passes every check and only advances pc (R132). -/
theorem exec_nop (s : State) : exec .nop s = .next (advance (encode .nop) s) := rfl

/-- Settles O14: NOP is the advance of pc, HALT is `endHalt`, and each has one word. -/
theorem nopAndHaltRules : Obligations.NopAndHaltRules := by
  refine ⟨fun s => ⟨rfl, fun hpc => ?next, fun hpc => ?last, rfl, exec_halt s⟩, fun w hop hw => ?nop,
    fun w hop hw => ?halt⟩
  case next => rw [exec_nop, advance, if_neg hpc]
  case last => rw [exec_nop, advance, if_pos hpc]; rfl
  case nop => exact decode_noOperands_reserved (op := 0x00) rfl hop hw
  case halt => exact decode_noOperands_reserved (op := 0x01) rfl hop hw

/-! ## MOV -/

/-- MOV's source words, counted from its base (R134). -/
theorem rdRaw_eq_map_range (s : State) (b n : Nat) : s.rdRaw b n = (List.range n).map fun j => s.readW (b + j) := by
  rw [State.rdRaw, List.range'_eq_map_range, List.map_map]
  rfl

theorem rangesOk_mov (rd a : WIdx) (n : BitVec 8) :
    rangesOk (.mov rd a n) = true ↔ FitsW rd n.toNat ∧ FitsW a n.toNat := by
  simp [rangesOk_iff, operandsOf, destOf, sourcesOf, FitsW]

/-- Settles O15: the words MOV writes are those the state held before it. -/
theorem movCopiesWords : Obligations.MovCopiesWords := by
  intro s rd rs1 n
  refine ⟨fun hn => decode_packFields_reserved (f := .movCount) rfl (.inr ?_), fun hn => ?_⟩
  · exact (build_eq_none_iff (op := 0x02) rfl).2 (.inl ⟨rfl, hn⟩)
  · rw [← rdRaw_eq_map_range]
    exact commandRule_of_command rfl (by rw [rdRaw_length]; rfl) (decide_eq_true hn) (rangesOk_mov rd rs1 n).symm
      (iff_of_true trivial rfl)

/-! ## LDC -/

theorem rangesOk_ldc (rd : WIdx) (k : LdcConst) : rangesOk (.ldc rd k) = true ↔ FitsW rd (ldcSize k) := by
  simp [rangesOk_iff, operandsOf, destOf, sourcesOf, FitsW]

/-- One word always lies in the file. -/
theorem fitsW_one (b : WIdx) : FitsW b 1 := b.isLt

/-- LDC reads no source, so its range is its only error. -/
theorem ldc_commandRule (s : State) (rd : WIdx) {k : LdcConst} {fits : Prop} {ws : List Word}
    (hfits : fits ↔ FitsW rd (ldcSize k)) (hws : ldcWords k = ws) :
    CommandRule 0x03 (.ldc rd k) fits True rd ws s := by
  subst hws
  exact commandRule_of_command rfl (by rw [ldcWords_length]; rfl) rfl (hfits.trans (rangesOk_ldc rd k).symm)
    (iff_of_true trivial rfl)

theorem one_eq_toMont : Config.one = toMont 1 := by rw [one_def, toMont, Nat.one_mul]

theorem one_eq_pow : Config.one = 2 ^ 384 % Config.p := by rw [one_def, Config.rm]

theorem r2_eq_pow : Config.r2 = 2 ^ 768 % Config.p := by rw [r2_def, Config.rm, ← pow_add]

theorem ldcWords_g2zero : ldcWords .g2zero = [fw 0, fw 0, fw (toMont 1), fw 0, fw 0, fw 0] := by
  rw [← one_eq_toMont]
  rfl

theorem ldcWords_g2gen :
    ldcWords .g2gen = [fw (toMont Config.genX0), fw (toMont Config.genX1), fw (toMont Config.genY0),
      fw (toMont Config.genY1), fw (toMont 1), fw 0] := by
  obtain ⟨hx0, hx1, hy0, hy1⟩ := generator_def
  rw [← hx0, ← hx1, ← hy0, ← hy1, ← one_eq_toMont]
  rfl

theorem ldcWords_b2 : ldcWords .b2 = [fw (toMont 4), fw (toMont 4)] := by
  rw [← m4_def]
  rfl

/-- Settles O16: the words of the ROM are the residues and Montgomery words that the rule names. -/
theorem ldcLoadsConstants : Obligations.LdcLoadsConstants := by
  intro s rd
  have hone : True ↔ FitsW rd 1 := iff_of_true trivial (fitsW_one rd)
  refine ⟨fun rs1 k h => ?_, ldc_commandRule s rd hone rfl, ldc_commandRule s rd hone ?_,
    ldc_commandRule s rd hone ?_, ldc_commandRule s rd Iff.rfl ldcWords_g2zero,
    ldc_commandRule s rd Iff.rfl ldcWords_g2gen, ldc_commandRule s rd Iff.rfl ldcWords_b2⟩
  · refine decode_packFields_reserved (f := .ldcSelector) rfl (h.imp_right fun hk => ?_)
    exact (build_eq_none_iff (op := 0x03) rfl).2 (.inr ⟨rfl, Nat.not_le.2 hk⟩)
  · exact congrArg (fun x => [fw x]) one_eq_pow
  · exact congrArg (fun x => [fw x]) r2_eq_pow

end Sys2Proof.Proofs
end

section
/-! SUPPORT. The Fp functions (spec/41_fp.md R140 to R148, R151): the conditional corrections, the Montgomery product, the
two conversions and exponentiation. -/

namespace Sys2Proof.Proofs

open Sys2Proof Sys2Proof.Machine Sys2Proof.Laws

/-! ## One conditional correction (R140 to R142) -/

theorem addp_eq_adderPath {a b : Nat} (ha : a < Config.p) (hb : b < Config.p) : addp a b = adderPath a b := by
  unfold addp adderPath
  split
  · next h => rw [Nat.mod_eq_sub_mod h, Nat.mod_eq_of_lt (by omega)]
  · next h => exact Nat.mod_eq_of_lt (not_le.1 h)

theorem subp_eq_subtractorPath {a b : Nat} (ha : a < Config.p) (hb : b < Config.p) :
    subp a b = subtractorPath a b := by
  unfold subp subtractorPath
  dsimp only
  split
  · next h => rw [Nat.mod_eq_of_lt (by omega)]; omega
  · next h => rw [Nat.mod_eq_sub_mod (by omega), Nat.mod_eq_of_lt (by omega)]; omega

theorem negp_eq_negatorPath (a : Nat) : negp a = negatorPath a := by
  unfold negp negatorPath
  split
  · next h => rw [h, Nat.sub_zero, Nat.mod_self]
  · next h => exact Nat.mod_eq_of_lt (by have := p_pos; omega)

/-! ## The field of p elements -/

/-- Two residues of p are one when they are one in ZMod p. -/
theorem mod_eq_of_cast_eq {a b : Nat} (h : (a : ZMod Config.p) = b) : a % Config.p = b % Config.p :=
  (ZMod.natCast_eq_natCast_iff' a b Config.p).1 h

theorem cast_ne_zero {w : Nat} (hpos : 0 < w) (hlt : w < Config.p) : (w : ZMod Config.p) ≠ 0 := by
  rw [Ne, ZMod.natCast_eq_zero_iff]
  exact Nat.not_dvd_of_pos_of_lt hpos hlt

theorem cast_rm_mul_rinv : ((Config.rm : Nat) : ZMod Config.p) * Config.rinv = 1 := by
  rw [mul_comm, cast_rinv_rm]

/-! ## The Montgomery product and the conversions (R144, R147, R148) -/

theorem mont_mul_rm (a b : Nat) : mont a b * Config.rm % Config.p = a * b % Config.p := by
  apply mod_eq_of_cast_eq
  rw [Nat.cast_mul, Nat.cast_mul, cast_mont, mul_assoc, cast_rinv_rm, mul_one]

/-- The Montgomery product is the only canonical word with its defining congruence. -/
theorem eq_mont_of_mul_rm {a b c : Nat} (hc : c < Config.p)
    (h : ((c * Config.rm : Nat) : ZMod Config.p) = (a * b : Nat)) : c = mont a b := by
  refine eq_of_cast_eq hc (mont_lt a b) ?_
  rw [cast_mont, ← Nat.cast_mul, ← h, Nat.cast_mul, mul_assoc, cast_rm_mul_rinv, mul_one]

theorem mont_r2 (x : Nat) : mont x Config.r2 = toMont x := by
  refine eq_of_cast_eq (mont_lt _ _) (toMont_lt _) ?_
  rw [cast_mont, cast_toMont, r2_def, cast_mod_p, Nat.cast_mul]
  linear_combination (x : ZMod Config.p) * Config.rm * cast_rm_mul_rinv

theorem mont_one_right (w : Nat) : mont w 1 = valOf w := by rw [mont, valOf, Nat.mul_one]

theorem valOf_toMont {x : Nat} (h : x < Config.p) : valOf (toMont x) = x := by
  refine eq_of_cast_eq (valOf_lt _) h ?_
  rw [cast_valOf, cast_toMont, mul_assoc, cast_rm_mul_rinv, mul_one]

theorem toMont_valOf {w : Nat} (h : w < Config.p) : toMont (valOf w) = w := by
  refine eq_of_cast_eq (toMont_lt _) h ?_
  rw [cast_toMont, cast_valOf, mul_assoc, cast_rinv_rm, mul_one]

/-! ## Exponentiation (R151) -/

theorem cast_valOf_mont (a b : Nat) : (valOf (mont a b) : ZMod Config.p) = valOf a * valOf b := by
  rw [cast_valOf, cast_valOf, cast_valOf, cast_mont]
  ring

theorem cast_valOf_one : (valOf Config.one : ZMod Config.p) = 1 := by rw [cast_valOf, cast_one, cast_rm_mul_rinv]

/-- With k bits left the loop raises what it has to 2^k and multiplies in the power of the k low bits. -/
theorem cast_valOf_expLoop (a e k acc : Nat) :
    (valOf (expLoop a e k acc) : ZMod Config.p) = (valOf acc : ZMod Config.p) ^ 2 ^ k * valOf a ^ (e % 2 ^ k) := by
  induction k generalizing acc with
  | zero => simp [expLoop, Nat.mod_one]
  | succ k ih =>
    rw [expLoop, ih, Nat.mod_pow_succ, ← Nat.toNat_testBit]
    cases e.testBit k with
    | false =>
      rw [if_neg Bool.false_ne_true, cast_valOf_mont, Bool.toNat_false]
      ring
    | true =>
      rw [if_pos rfl, cast_valOf_mont, cast_valOf_mont, Bool.toNat_true]
      ring

theorem expm_eq {a e : Nat} (he : e < 2 ^ 1024) : expm a e = toMont (valOf a ^ e % Config.p) := by
  rw [← toMont_valOf (expm_lt a e)]
  refine congrArg toMont (eq_of_cast_eq (valOf_lt _) (Nat.mod_lt _ p_pos) ?_)
  rw [expm, cast_valOf_expLoop, cast_valOf_one, one_pow, one_mul, Nat.mod_eq_of_lt he, cast_mod_p, Nat.cast_pow]

/-- 0 to any exponent but 0 is 0. -/
theorem expm_zero {e : Nat} (he : e < 2 ^ 1024) (hne : e ≠ 0) : expm 0 e = 0 := by
  have hval : valOf 0 = 0 := by rw [valOf, Nat.zero_mul, Nat.zero_mod]
  rw [expm_eq he, hval, zero_pow hne, Nat.zero_mod, toMont, Nat.zero_mul, Nat.zero_mod]

end Sys2Proof.Proofs
end

section
/-! SUPPORT. The inversion engine (spec/41_fp.md R149): the rounds of the EGCD mode end, and with the inverse; so both modes
give the same word. -/

namespace Sys2Proof.Proofs

open Sys2Proof Sys2Proof.Machine Sys2Proof.Laws

/-! ## The EGCD mode -/

theorem p_odd : Config.p % 2 = 1 := by have := p_mod_four; omega

theorem two_lt_p : 2 < Config.p := by have := p_mod_four; omega

theorem cast_two_mul_halfp (x : Nat) : (2 : ZMod Config.p) * (halfp x : Nat) = x := by
  have hodd := p_odd
  unfold halfp
  split
  · next h => rw [← Nat.cast_ofNat, ← Nat.cast_mul, show 2 * (x / 2) = x by omega]
  · next h =>
    rw [← Nat.cast_ofNat, ← Nat.cast_mul, show 2 * ((x + Config.p) / 2) = x + Config.p by omega, Nat.cast_add,
      ZMod.natCast_self, add_zero]

/-- Before `n` rounds: u and v are positive and coprime, x1·w ≡ u and x2·w ≡ v (mod p), and m bits of the product u·v
are left, with two rounds for each and one more where both are odd. -/
structure EgcdState (w n u v x1 x2 : Nat) : Prop where
  u_pos : 0 < u
  v_pos : 0 < v
  coprime : Nat.Coprime u v
  x1_lt : x1 < Config.p
  x2_lt : x2 < Config.p
  left : (x1 : ZMod Config.p) * w = u
  right : (x2 : ZMod Config.p) * w = v
  rounds : ∃ m, u * v < 2 ^ m ∧ 2 * m + u % 2 * (v % 2) ≤ n

section Rounds

variable {w n u v x1 x2 : Nat}

theorem EgcdState.swap (h : EgcdState w n u v x1 x2) : EgcdState w n v u x2 x1 where
  u_pos := h.v_pos
  v_pos := h.u_pos
  coprime := h.coprime.symm
  x1_lt := h.x2_lt
  x2_lt := h.x1_lt
  left := h.right
  right := h.left
  rounds := by simpa only [Nat.mul_comm] using h.rounds

/-- The product is positive, so that a bit of it is left. -/
theorem EgcdState.bits_ne_zero (h : EgcdState w n u v x1 x2) {m : Nat} (hm : u * v < 2 ^ m) : m ≠ 0 := by
  have huv : 0 < u * v := Nat.mul_pos h.u_pos h.v_pos
  rintro rfl
  omega

theorem EgcdState.fuel_ne_zero (h : EgcdState w n u v x1 x2) : n ≠ 0 := by
  obtain ⟨m, hm, hn⟩ := h.rounds
  have hbits := h.bits_ne_zero hm
  omega

/-- Halving an even u leaves one bit less of the product. -/
theorem EgcdState.halve (h : EgcdState w (n + 1) u v x1 x2) (heven : u % 2 = 0) :
    EgcdState w n (u / 2) v (halfp x1) x2 where
  u_pos := by have := h.u_pos; omega
  v_pos := h.v_pos
  coprime := h.coprime.coprime_div_left (Nat.dvd_of_mod_eq_zero heven)
  x1_lt := halfp_lt h.x1_lt
  x2_lt := h.x2_lt
  left := by
    have := p_fact
    have htwo : (2 : ZMod Config.p) ≠ 0 := cast_ne_zero two_pos two_lt_p
    refine mul_left_cancel₀ htwo ?_
    rw [← mul_assoc, cast_two_mul_halfp, h.left, ← Nat.cast_ofNat, ← Nat.cast_mul,
      Nat.mul_div_cancel' (Nat.dvd_of_mod_eq_zero heven)]
  right := h.right
  rounds := by
    obtain ⟨m, hm, hn⟩ := h.rounds
    obtain ⟨k, rfl⟩ := Nat.exists_eq_add_one_of_ne_zero (h.bits_ne_zero hm)
    have hhalf : 2 * (u / 2 * v) = u * v := by rw [← mul_assoc, Nat.mul_div_cancel' (Nat.dvd_of_mod_eq_zero heven)]
    have hbit : u / 2 % 2 * (v % 2) ≤ 1 := Nat.mul_le_mul (by omega : _ ≤ 1) (by omega : _ ≤ 1)
    exact ⟨k, by rw [pow_succ] at hm; omega, by omega⟩

/-- The difference of two odd numbers is even, and the product does not grow. -/
theorem EgcdState.subtract (h : EgcdState w (n + 1) u v x1 x2) (hu : u % 2 = 1) (hv : v % 2 = 1) (hlt : v < u) :
    EgcdState w n (u - v) v (subp x1 x2) x2 where
  u_pos := Nat.sub_pos_of_lt hlt
  v_pos := h.v_pos
  coprime := (Nat.coprime_sub_self_left hlt.le).2 h.coprime
  x1_lt := subp_lt x1 x2
  x2_lt := h.x2_lt
  left := by rw [cast_subp x1 h.x2_lt, sub_mul, h.left, h.right, Nat.cast_sub hlt.le]
  right := h.right
  rounds := by
    obtain ⟨m, hm, hn⟩ := h.rounds
    refine ⟨m, (Nat.mul_le_mul_right v (Nat.sub_le u v)).trans_lt hm, ?_⟩
    have heven : (u - v) % 2 = 0 := by omega
    rw [hu, hv] at hn
    rw [heven, Nat.zero_mul]
    omega

end Rounds

/-- The loop ends at u = 1 or v = 1, with the inverse of w. -/
theorem EgcdState.loop_inverts {w n u v x1 x2 : Nat} (h : EgcdState w n u v x1 x2) :
    (egcdLoop n u v x1 x2 : ZMod Config.p) * w = 1 := by
  induction n generalizing u v x1 x2 with
  | zero => exact absurd rfl h.fuel_ne_zero
  | succ n ih =>
    unfold egcdLoop
    split_ifs with hu hv hu2 hv2 hle
    · rw [h.left, hu, Nat.cast_one]
    · rw [h.right, hv, Nat.cast_one]
    · exact ih (h.halve hu2)
    · exact ih (h.swap.halve hv2).swap
    · have hne : u ≠ v := by
        rintro rfl
        exact hu ((Nat.coprime_self u).1 h.coprime)
      exact ih (h.subtract (Nat.mod_two_ne_zero.1 hu2) (Nat.mod_two_ne_zero.1 hv2) (by omega))
    · exact ih (h.swap.subtract (Nat.mod_two_ne_zero.1 hv2) (Nat.mod_two_ne_zero.1 hu2) (not_le.1 hle)).swap

theorem p_lt_two_pow : Config.p < 2 ^ 381 := by decide +kernel

/-- w and p start the loop with 762 bits in all, and 1600 rounds are enough for them. -/
theorem egcdState_start {w : Nat} (hpos : 0 < w) (hlt : w < Config.p) : EgcdState w 1600 w Config.p 1 0 where
  u_pos := hpos
  v_pos := p_pos
  coprime := ((Nat.Prime.coprime_iff_not_dvd p_prime).2 (Nat.not_dvd_of_pos_of_lt hpos hlt)).symm
  x1_lt := p_prime.one_lt
  x2_lt := p_pos
  left := by rw [Nat.cast_one, one_mul]
  right := by rw [Nat.cast_zero, zero_mul, ZMod.natCast_self]
  rounds := by
    refine ⟨381 + 381, ?_, ?_⟩
    · rw [pow_add]
      exact Nat.mul_lt_mul'' (hlt.trans p_lt_two_pow) p_lt_two_pow
    · rw [p_odd]
      omega

theorem cast_egcdInv_mul {w : Nat} (hpos : 0 < w) (hlt : w < Config.p) :
    (egcdInv w : ZMod Config.p) * w = 1 := (egcdState_start hpos hlt).loop_inverts

/-! ## Both modes -/

theorem p_sub_two_lt : Config.p - 2 < 2 ^ 1024 := by decide +kernel

/-- Fermat's little theorem, for the value of a word. -/
theorem valOf_mul_pow {w : Nat} (hpos : 0 < w) (hlt : w < Config.p) :
    (valOf w : ZMod Config.p) * valOf w ^ (Config.p - 2) = 1 := by
  have := p_fact
  have hval : (valOf w : ZMod Config.p) ≠ 0 := by
    rw [cast_valOf]
    exact mul_ne_zero (cast_ne_zero hpos hlt) (left_ne_zero_of_mul_eq_one cast_rinv_rm)
  have hexp : Config.p - 2 + 1 = Config.p - 1 := by have := p_prime.two_le; omega
  rw [← pow_succ', hexp, ZMod.pow_card_sub_one_eq_one hval]

/-- In either mode the product of a word that is not 0 with its inverse is ONE. -/
theorem mont_invFw (mode : InvMode) {w : Nat} (hpos : 0 < w) (hlt : w < Config.p) :
    mont w (invFw mode w) = Config.one := by
  refine eq_of_cast_eq (mont_lt _ _) one_lt ?_
  rw [cast_mont, cast_one]
  cases mode with
  | fermat =>
    have hfermat := valOf_mul_pow hpos hlt
    rw [invFw, expm_eq p_sub_two_lt, cast_toMont, cast_mod_p, Nat.cast_pow]
    rw [cast_valOf] at hfermat ⊢
    linear_combination (Config.rm : ZMod Config.p) * hfermat
  | egcd =>
    have hinv := cast_egcdInv_mul hpos hlt
    rw [invFw, if_neg hpos.ne', cast_mont, r3_def, cast_mod_p, Nat.cast_mul, Nat.cast_mul]
    linear_combination (Config.rm : ZMod Config.p) ^ 3 * Config.rinv ^ 2 * hinv +
      (Config.rm : ZMod Config.p) * (Config.rm * Config.rinv + 1) * cast_rm_mul_rinv

/-- A word has one canonical inverse. -/
theorem eq_of_mont_eq {w c d : Nat} (hpos : 0 < w) (hlt : w < Config.p) (hc : c < Config.p) (hd : d < Config.p)
    (h : mont w c = mont w d) : c = d := by
  have := p_fact
  have hcast := congrArg (Nat.cast : Nat → ZMod Config.p) h
  rw [cast_mont, cast_mont] at hcast
  have hrinv : (Config.rinv : ZMod Config.p) ≠ 0 := left_ne_zero_of_mul_eq_one cast_rinv_rm
  exact eq_of_cast_eq hc hd (mul_left_cancel₀ (cast_ne_zero hpos hlt) (mul_right_cancel₀ hrinv hcast))

theorem invFw_egcd_zero : invFw .egcd 0 = 0 := rfl

theorem invFw_fermat_eq (w : Nat) : invFw .fermat w = toMont (valOf w ^ (Config.p - 2) % Config.p) :=
  by
  rw [invFw, expm_eq p_sub_two_lt]

theorem invFw_fermat_zero : invFw .fermat 0 = 0 := expm_zero p_sub_two_lt (by have := two_lt_p; omega)

/-- Both modes give one word for every canonical source (R149). -/
theorem invFw_eq_fermat (mode : InvMode) {w : Nat} (h : w < Config.p) : invFw mode w = invFw .fermat w := by
  rcases Nat.eq_zero_or_pos w with rfl | hpos
  · cases mode with
    | fermat => rfl
    | egcd => rw [invFw_egcd_zero, invFw_fermat_zero]
  · exact eq_of_mont_eq hpos h (invFw_lt _ _) (invFw_lt _ _) ((mont_invFw _ hpos h).trans (mont_invFw _ hpos h).symm)

end Sys2Proof.Proofs
end

section
/-! SUPPORT. The word-serial multiplier (spec/41_fp.md R145): every round of the CIOS loop keeps the accumulator below 2p and
takes in one limb. -/

namespace Sys2Proof.Proofs

open Sys2Proof Sys2Proof.Machine Sys2Proof.Laws

/-- p' makes the low limb of every round's sum 0, so that its division is exact. -/
theorem ciosRound_mul (a bi T : Nat) :
    ciosRound a bi T * 2 ^ 64 = T + a * bi + (T + a * bi) % 2 ^ 64 * Config.pPrime % 2 ^ 64 * Config.p := by
  unfold ciosRound
  refine Nat.div_mul_cancel ((ZMod.natCast_eq_zero_iff _ _).1 ?_)
  have hp : ((Config.pPrime * Config.p + 1 : Nat) : ZMod (2 ^ 64)) = 0 :=
    (ZMod.natCast_eq_zero_iff _ _).2 (Nat.dvd_of_mod_eq_zero pPrime_def)
  have hmod (x : Nat) : ((x % 2 ^ 64 : Nat) : ZMod (2 ^ 64)) = x := ZMod.natCast_mod x _
  rw [Nat.cast_add, Nat.cast_mul _ Config.p, hmod, Nat.cast_mul, hmod]
  push_cast at hp ⊢
  linear_combination ((T : ZMod (2 ^ 64)) + a * bi) * hp

theorem ciosRound_lt {a bi T : Nat} (ha : a < Config.p) (hb : bi < 2 ^ 64) (hT : T < 2 * Config.p) :
    ciosRound a bi T < 2 * Config.p := by
  have hm : (T + a * bi) % 2 ^ 64 * Config.pPrime % 2 ^ 64 < 2 ^ 64 := Nat.mod_lt _ (by decide)
  refine Nat.div_lt_of_lt_mul ?_
  have h1 : a * bi ≤ Config.p * (2 ^ 64 - 1) := Nat.mul_le_mul ha.le (by omega)
  have h2 : (T + a * bi) % 2 ^ 64 * Config.pPrime % 2 ^ 64 * Config.p ≤ (2 ^ 64 - 1) * Config.p :=
    Nat.mul_le_mul_right _ (by omega)
  omega

theorem mod_succ_limb (b k : Nat) : b % 2 ^ (64 * (k + 1)) = b % 2 ^ (64 * k) + 2 ^ (64 * k) * limb b k := by
  rw [Nat.mul_succ, pow_add, Nat.mod_mul, limb]

theorem ciosRounds_lt {a : Nat} (b : Nat) (ha : a < Config.p) (k : Nat) : ciosRounds a b k < 2 * Config.p := by
  induction k with
  | zero => exact Nat.mul_pos two_pos p_pos
  | succ k ih => exact ciosRound_lt ha (Nat.mod_lt _ (by decide)) ih

/-- After k rounds the accumulator times 2^(64k) is a times the k low limbs of b, modulo p. -/
theorem cast_ciosRounds (a b k : Nat) :
    ((ciosRounds a b k * 2 ^ (64 * k) : Nat) : ZMod Config.p) = (a * (b % 2 ^ (64 * k)) : Nat) := by
  induction k with
  | zero => simp [ciosRounds, Nat.mod_one]
  | succ k ih =>
    have hround := congrArg (Nat.cast : Nat → ZMod Config.p) (ciosRound_mul a (limb b k) (ciosRounds a b k))
    rw [mod_succ_limb, Nat.mul_succ, pow_add, ciosRounds]
    push_cast [ZMod.natCast_self] at ih hround ⊢
    linear_combination (2 : ZMod Config.p) ^ (64 * k) * hround + ih

/-- Settles O22: the loop's result lies in [0, p) and is congruent to the product times 2^-384. -/
theorem ciosLoopIsTheMontgomeryProduct : Obligations.CiosLoopIsTheMontgomeryProduct := by
  intro a b ha hb
  have hlt := ciosRounds_lt b ha 6
  have hcong := cast_ciosRounds a b 6
  have hrm : 2 ^ (64 * 6) = Config.rm := by rw [Config.rm]
  have hbrm : b < Config.rm := hb.trans p_lt_word
  rw [hrm, Nat.mod_eq_of_lt hbrm] at hcong
  unfold cios
  dsimp only
  split
  · next h =>
    refine eq_mont_of_mul_rm (by omega) ?_
    rw [Nat.cast_mul, Nat.cast_sub h, ZMod.natCast_self, sub_zero, ← Nat.cast_mul]
    exact hcong
  · next h => exact eq_mont_of_mul_rm (not_le.1 h) hcong

end Sys2Proof.Proofs
end

section
/-! SUPPORT. The Fp commands (spec/41_fp.md R140 to R151): each reads and writes single words, and its rule follows from
what the Fp functions say of its result. -/

namespace Sys2Proof.Proofs

open Sys2Proof Sys2Proof.Machine Sys2Proof.Laws

/-! ## The rule of a command on single words (R101, R303) -/

theorem canonW_one (s : State) (b : WIdx) : CanonW s b 1 ↔ (s.readW b.toNat).toNat < Config.p :=
  ⟨fun h => h 0 Nat.one_pos, fun h j hj => by rwa [Nat.lt_one_iff.1 hj]⟩

/-- Operands of one word each lie in the file whatever their indices are. -/
theorem rangesOk_of_single_words {i : Instr} (h : ∀ o ∈ operandsOf i, o.2 = 1) : rangesOk i = true :=
  (rangesOk_iff i).2 fun o ho => by rw [h o ho]; exact fitsW_one o.1

/-- The result need be the rule's only where the sources are canonical. -/
theorem commandRule_of_single_words {i : Instr} {canon : Prop} {rd : WIdx} {x y : Nat} {s : State}
    (he : exec i s = command i rd [fw x] s) (hd : destOf i = some (rd, 1)) (hwf : i.wellFormed = true)
    (hones : ∀ o ∈ operandsOf i, o.2 = 1) (hcanon : canon ↔ sourcesCanonical i s = true) (hxy : canon → x = y) :
    CommandRule i.opcode.toNat i True canon rd [fw y] s := by
  obtain ⟨hop, hrange, hnoncanonical, hresult⟩ :=
    commandRule_of_command he hd hwf (iff_of_true trivial (rangesOk_of_single_words hones)) hcanon
  exact ⟨hop, hrange, hnoncanonical, fun hfits hc => hxy hc ▸ hresult hfits hc⟩

theorem commandRule_oneSource {i : Instr} {rd a : WIdx} {x y : Nat} {s : State}
    (he : exec i s = command i rd [fw x] s) (hd : destOf i = some (rd, 1)) (hsrc : sourcesOf i = [(a, 1)])
    (hcheck : checksCanonical i = true) (hwf : i.wellFormed = true)
    (hxy : (s.readW a.toNat).toNat < Config.p → x = y) :
    CommandRule i.opcode.toNat i True ((s.readW a.toNat).toNat < Config.p) rd [fw y] s :=
  commandRule_of_single_words he hd hwf (by simp [operandsOf, hd, hsrc])
    (by simp [sourcesCanonical_iff i s hcheck, hsrc, canonW_one]) hxy

theorem commandRule_twoSources {i : Instr} {rd a b : WIdx} {x y : Nat} {s : State}
    (he : exec i s = command i rd [fw x] s) (hd : destOf i = some (rd, 1)) (hsrc : sourcesOf i = [(a, 1), (b, 1)])
    (hcheck : checksCanonical i = true) (hwf : i.wellFormed = true)
    (hxy : (s.readW a.toNat).toNat < Config.p → (s.readW b.toNat).toNat < Config.p → x = y) :
    CommandRule i.opcode.toNat i True
      ((s.readW a.toNat).toNat < Config.p ∧ (s.readW b.toNat).toNat < Config.p) rd [fw y] s :=
  commandRule_of_single_words he hd hwf (by simp [operandsOf, hd, hsrc])
    (by simp [sourcesCanonical_iff i s hcheck, hsrc, canonW_one]) (fun h => hxy h.1 h.2)

/-! ## Words with a reserved rs2 (R104) -/

theorem rs2Reserved_of_twoW {op : BitVec 8} {c : WIdx → WIdx → Instr} (hf : formOf op = some (.twoW c)) :
    Rs2Reserved op := fun _ _ _ hb => decode_packFields_reserved hf (.inl hb)

theorem mode_reserved : ∀ b : BitVec 8, 1 < b.toNat → b &&& 0xFE ≠ 0 := by decide

theorem scalar_reserved : ∀ b : BitVec 8, 3 < b.toNat → b &&& 0xFC ≠ 0 := by decide

theorem decode_withMode_reserved {op rd a b : BitVec 8} {c : WIdx → WIdx → InvMode → Instr}
    (hf : formOf op = some (.withMode c)) (hb : 1 < b.toNat) :
    decode (packFields op rd a b) = .error .reservedField :=
  decode_packFields_reserved hf (.inl (mode_reserved b hb))

theorem decode_withScalar_reserved {op rd a b : BitVec 8} {c : WIdx → WIdx → SIdx → Instr}
    (hf : formOf op = some (.withScalar c)) (hb : 3 < b.toNat) :
    decode (packFields op rd a b) = .error .reservedField :=
  decode_packFields_reserved hf (.inl (scalar_reserved b hb))

/-! ## The statements -/

/-- Settles O17: on canonical sources the residues of R16 are the conditional corrections of the datapath. -/
theorem fpAdditionRules : Obligations.FpAdditionRules := by
  intro s rd rs1 rs2 a b
  exact ⟨commandRule_twoSources rfl rfl rfl rfl rfl addp_eq_adderPath,
    commandRule_twoSources rfl rfl rfl rfl rfl subp_eq_subtractorPath,
    commandRule_oneSource rfl rfl rfl rfl rfl fun _ => negp_eq_negatorPath _,
    commandRule_oneSource rfl rfl rfl rfl rfl fun h => addp_eq_adderPath h h,
    rs2Reserved_of_twoW rfl, rs2Reserved_of_twoW rfl⟩

/-- Settles O18: the word is the model's Montgomery product. -/
theorem fpMontgomeryProductRules : Obligations.FpMontgomeryProductRules := by
  intro s rd rs1 rs2 a b
  exact ⟨⟨mont a b, mont_lt a b, mont_mul_rm a b, commandRule_twoSources rfl rfl rfl rfl rfl fun _ _ => rfl⟩,
    ⟨mont a a, mont_lt a a, mont_mul_rm a a, commandRule_oneSource rfl rfl rfl rfl rfl fun _ => rfl⟩,
    rs2Reserved_of_twoW rfl⟩

/-- Settles O19: the product with R2 is the map M, and the product with 1 undoes it. -/
theorem montgomeryConversionRules : Obligations.MontgomeryConversionRules := by
  refine ⟨fun s rd rs1 => ?_, fun x hx => (mont_one_right _).trans (valOf_toMont hx), rs2Reserved_of_twoW rfl,
    rs2Reserved_of_twoW rfl⟩
  intro a
  refine ⟨commandRule_oneSource rfl rfl rfl rfl rfl fun _ => mont_r2 a, mont a 1, mont_lt a 1, ?_,
    commandRule_oneSource rfl rfl rfl rfl rfl fun _ => rfl⟩
  exact (mont_mul_rm a 1).trans (congrArg (· % Config.p) (Nat.mul_one a))

/-- Settles O20: the loop over all 1024 bits of the scalar raises the source's value to it. -/
theorem fexpRule : Obligations.FexpRule := by
  refine ⟨fun s rd rs1 k => ?_, fun _ _ _ => decode_withScalar_reserved rfl⟩
  intro a
  have he : expm a (s.readS k).toNat = toMont (valOf a ^ (s.readS k).toNat % Config.p) := expm_eq (s.readS k).isLt
  exact commandRule_oneSource rfl rfl rfl rfl rfl fun _ => he

/-- Settles O21: the word is the one FERMAT mode gives, and the modes agree on canonical sources. -/
theorem finvInvertsInBothModes : Obligations.FinvInvertsInBothModes := by
  refine ⟨fun s rd rs1 => ?_, fun _ _ _ => decode_withMode_reserved rfl⟩
  intro a
  refine ⟨invFw .fermat a, invFw_lt _ a, fun mode => ?rule, fun ha => ⟨invFw_fermat_eq a, fun hzero => ?zero,
    fun hne => mont_invFw .fermat (Nat.pos_of_ne_zero hne) ha⟩⟩
  case rule => exact commandRule_oneSource rfl rfl rfl rfl rfl (invFw_eq_fermat mode)
  case zero => rw [hzero, invFw_fermat_zero]

end Sys2Proof.Proofs
end

section
/-! SUPPORT. The Fp2 functions (spec/42_fp2.md R170 to R178): their components as integers mod p and in ZMod p, and the
inverse through the norm. -/

namespace Sys2Proof.Proofs

open Sys2Proof Sys2Proof.Machine Sys2Proof.Laws

/-! ## The representative mod p of an integer (R14) -/

theorem cast_modP (x : Int) : (modP x : ZMod Config.p) = x := by
  have hnonneg : 0 ≤ x % Config.p := Int.emod_nonneg x (Int.natCast_ne_zero.2 p_pos.ne')
  rw [← ZMod.intCast_mod x Config.p, ← Int.toNat_of_nonneg hnonneg, Int.cast_natCast, modP]

theorem modP_lt (x : Int) : modP x < Config.p :=
  (Int.toNat_lt_of_ne_zero p_pos.ne').2 (Int.emod_lt_of_pos x (Int.natCast_pos.2 p_pos))

/-- A canonical word is the representative of every integer with its residue. -/
theorem eq_modP_of_cast_eq {c : Nat} {x : Int} (hc : c < Config.p) (h : (c : ZMod Config.p) = x) : c = modP x :=
  eq_of_cast_eq hc (modP_lt x) (h.trans (cast_modP x).symm)

theorem addp_eq_modP (a b : Nat) : addp a b = modP (a + b) :=
  eq_modP_of_cast_eq (addp_lt a b) (by simp [cast_addp])

theorem addp_self_eq_modP (a : Nat) : addp a a = modP (2 * a) := by rw [addp_eq_modP, two_mul]

theorem subp_eq_modP (a : Nat) {b : Nat} (hb : b < Config.p) : subp a b = modP (a - b) :=
  eq_modP_of_cast_eq (subp_lt a b) (by simp [cast_subp a hb])

theorem negp_eq_modP {a : Nat} (ha : a < Config.p) : negp a = modP (-a) :=
  eq_modP_of_cast_eq (negp_lt a) (by simp [cast_negp ha])

theorem eq_modP_of_lt {a : Nat} (ha : a < Config.p) : a = modP a :=
  eq_modP_of_cast_eq ha (Int.cast_natCast a).symm

/-! ## Equality of values (R17, R18) -/

theorem fp2_words_eq {a : Fp2} {x y : Nat} (h0 : a.c0 = x) (h1 : a.c1 = y) : a.words = [fw x, fw y] := by
  rw [Fp2.words, h0, h1]

/-- Two canonical values with the same casts are the same value. -/
theorem fp2_eq_of_cast_eq {a b : Fp2} (ha : Canon2 a) (hb : Canon2 b) (h0 : (a.c0 : ZMod Config.p) = b.c0)
    (h1 : (a.c1 : ZMod Config.p) = b.c1) : a = b :=
  congrArg₂ Fp2.mk (eq_of_cast_eq ha.1 hb.1 h0) (eq_of_cast_eq ha.2 hb.2 h1)

/-! ## Products (R174, R175) -/

theorem cast_f2mul_c0 (a b : Fp2) :
    ((f2mul a b).c0 : ZMod Config.p) = (a.c0 * b.c0 - a.c1 * b.c1) * Config.rinv := by
  rw [f2mul, cast_subp _ (mont_lt _ _), cast_mont, cast_mont]
  ring

theorem cast_f2mul_c1 (a b : Fp2) :
    ((f2mul a b).c1 : ZMod Config.p) = (a.c0 * b.c1 + a.c1 * b.c0) * Config.rinv := by
  rw [f2mul, cast_subp _ (mont_lt _ _), cast_subp _ (mont_lt _ _)]
  simp only [cast_mont, cast_addp]
  ring

/-- On a canonical operand the two products of F2SQR give the product of the operand with itself (R175). -/
theorem f2sqr_eq_f2mul {a : Fp2} (ha : Canon2 a) : f2sqr a = f2mul a a := by
  refine fp2_eq_of_cast_eq (f2sqr_canon a) (f2mul_canon a a) ?_ ?_
  · rw [cast_f2mul_c0, f2sqr, cast_mont, cast_addp, cast_subp _ ha.2]
    ring
  · rw [cast_f2mul_c1, f2sqr, cast_addp, cast_mont]
    ring

/-- A word that is an integer times 2^-384 in ZMod p, as a congruence of integers (R16). -/
theorem mul_rm_modEq {c : Nat} {x : Int} (h : (c : ZMod Config.p) = x * Config.rinv) :
    (c : Int) * 2 ^ 384 ≡ x [ZMOD Config.p] := by
  have hrm : (2 : Int) ^ 384 = (Config.rm : Nat) := by rw [Config.rm, Nat.cast_pow, Nat.cast_ofNat]
  rw [← ZMod.intCast_eq_intCast_iff, hrm, Int.cast_mul, Int.cast_natCast, Int.cast_natCast, h, mul_assoc,
    cast_rinv_rm, mul_one]

theorem f2mul_c0_modEq (a b : Fp2) :
    ((f2mul a b).c0 : Int) * 2 ^ 384 ≡ a.c0 * b.c0 - a.c1 * b.c1 [ZMOD Config.p] :=
  mul_rm_modEq (by simp [cast_f2mul_c0])

theorem f2mul_c1_modEq (a b : Fp2) :
    ((f2mul a b).c1 : Int) * 2 ^ 384 ≡ a.c0 * b.c1 + a.c1 * b.c0 [ZMOD Config.p] :=
  mul_rm_modEq (by simp [cast_f2mul_c1])

theorem f2mul_self_c1_modEq (a : Fp2) : ((f2mul a a).c1 : Int) * 2 ^ 384 ≡ 2 * a.c0 * a.c1 [ZMOD Config.p] := by
  have hdouble : (2 : Int) * a.c0 * a.c1 = a.c0 * a.c1 + a.c1 * a.c0 := by ring
  rw [hdouble]
  exact f2mul_c1_modEq a a

/-! ## The inverse (R176) -/

/-- The norm a0² + a1² as a word. -/
def f2norm (a : Fp2) : Nat := addp (mont a.c0 a.c0) (mont a.c1 a.c1)

theorem f2inv_eq (mode : InvMode) (a : Fp2) :
    f2inv mode a = ⟨mont a.c0 (invFw mode (f2norm a)), negp (mont a.c1 (invFw mode (f2norm a)))⟩ := rfl

theorem f2norm_lt (a : Fp2) : f2norm a < Config.p := addp_lt _ _

theorem cast_f2norm (a : Fp2) :
    (f2norm a : ZMod Config.p) = ((a.c0 : ZMod Config.p) ^ 2 + (a.c1 : ZMod Config.p) ^ 2) * Config.rinv := by
  rw [f2norm, cast_addp, cast_mont, cast_mont]
  ring

theorem f2inv_eq_fermat (mode : InvMode) (a : Fp2) : f2inv mode a = f2inv .fermat a := by
  rw [f2inv_eq, f2inv_eq, invFw_eq_fermat mode (f2norm_lt a)]

theorem mont_zero_left (b : Nat) : mont 0 b = 0 := by rw [mont, Nat.zero_mul, Nat.zero_mul, Nat.zero_mod]

theorem negp_zero : negp 0 = 0 := by rw [negp, Nat.sub_zero, Nat.mod_self]

theorem f2inv_f2zero (mode : InvMode) : f2inv mode f2zero = f2zero := by
  rw [f2inv_eq, f2zero, mont_zero_left, negp_zero]

/-- -1 is no square modulo p, so that the sum of two squares is 0 only where both are. -/
theorem eq_zero_of_sq_add_sq {x y : ZMod Config.p} (h : x ^ 2 + y ^ 2 = 0) : x = 0 ∧ y = 0 := by
  have := p_fact
  have hy : y = 0 := by
    by_contra hy
    exact ZMod.mod_four_ne_three_of_sq_eq_neg_sq' hy (eq_neg_of_add_eq_zero_left h) p_mod_four
  subst hy
  exact ⟨by simpa using h, rfl⟩

theorem f2norm_pos {a : Fp2} (ha : Canon2 a) (hne : a ≠ f2zero) : 0 < f2norm a := by
  have := p_fact
  refine Nat.pos_of_ne_zero fun hzero => hne ?_
  have hcast := cast_f2norm a
  rw [hzero, Nat.cast_zero] at hcast
  have hrinv : (Config.rinv : ZMod Config.p) ≠ 0 := left_ne_zero_of_mul_eq_one cast_rinv_rm
  obtain ⟨h0, h1⟩ := eq_zero_of_sq_add_sq ((mul_eq_zero_iff_right hrinv).1 hcast.symm)
  exact fp2_eq_of_cast_eq ha f2zero_canon (h0.trans Nat.cast_zero.symm) (h1.trans Nat.cast_zero.symm)

/-- A canonical value that is not zero times its inverse, its conjugate over its norm, is F2ONE. -/
theorem f2mul_f2inv (mode : InvMode) {a : Fp2} (ha : Canon2 a) (hne : a ≠ f2zero) :
    f2mul a (f2inv mode a) = f2one := by
  have hinv := congrArg (Nat.cast : Nat → ZMod Config.p) (mont_invFw mode (f2norm_pos ha hne) (f2norm_lt a))
  rw [cast_mont, cast_f2norm, cast_one] at hinv
  refine fp2_eq_of_cast_eq (f2mul_canon _ _) f2one_canon ?_ ?_
  · rw [cast_f2mul_c0, f2inv_eq, cast_negp (mont_lt _ _), cast_mont, cast_mont, f2one, cast_one]
    linear_combination hinv
  · rw [cast_f2mul_c1, f2inv_eq, cast_negp (mont_lt _ _), cast_mont, cast_mont, f2one, Nat.cast_zero]
    ring

end Sys2Proof.Proofs
end

section
/-! SUPPORT. The Fp2 commands (spec/42_fp2.md R170 to R178): the rule of a command on operands of several words, and the
words that each Fp2 command writes. -/

namespace Sys2Proof.Proofs

open Sys2Proof Sys2Proof.Machine Sys2Proof.Laws

/-! ## The rule of a command on operands of several words (R101, R303) -/

/-- The result need be the rule's only where the sources are canonical. -/
theorem commandRule_result_congr {op : Nat} {i : Instr} {fits canon : Prop} {rd : WIdx} {ws ws' : List Word}
    {s : State} (h : CommandRule op i fits canon rd ws s) (hws : canon → ws = ws') :
    CommandRule op i fits canon rd ws' s := by
  obtain ⟨hop, hrange, hnoncanonical, hresult⟩ := h
  exact ⟨hop, hrange, hnoncanonical, fun hfits hc => hws hc ▸ hresult hfits hc⟩

theorem commandRule_oneOperand {i : Instr} {rd a : WIdx} {n m : Nat} {ws ws' : List Word} {s : State}
    (he : exec i s = command i rd ws s) (hd : destOf i = some (rd, n)) (hlen : ws.length = n)
    (hsrc : sourcesOf i = [(a, m)]) (hcheck : checksCanonical i = true) (hwf : i.wellFormed = true)
    (hws : CanonW s a m → ws = ws') :
    CommandRule i.opcode.toNat i (FitsW rd n ∧ FitsW a m) (CanonW s a m) rd ws' s :=
  commandRule_result_congr
    (commandRule_of_command he (hlen ▸ hd) hwf (by simp [rangesOk_iff, operandsOf, hd, hsrc, FitsW])
      (by simp [sourcesCanonical_iff i s hcheck, hsrc]))
    hws

theorem commandRule_twoOperands {i : Instr} {rd a b : WIdx} {n m k : Nat} {ws ws' : List Word} {s : State}
    (he : exec i s = command i rd ws s) (hd : destOf i = some (rd, n)) (hlen : ws.length = n)
    (hsrc : sourcesOf i = [(a, m), (b, k)]) (hcheck : checksCanonical i = true) (hwf : i.wellFormed = true)
    (hws : CanonW s a m → CanonW s b k → ws = ws') :
    CommandRule i.opcode.toNat i (FitsW rd n ∧ FitsW a m ∧ FitsW b k) (CanonW s a m ∧ CanonW s b k) rd ws' s :=
  commandRule_result_congr
    (commandRule_of_command he (hlen ▸ hd) hwf (by simp [rangesOk_iff, operandsOf, hd, hsrc, FitsW])
      (by simp [sourcesCanonical_iff i s hcheck, hsrc]))
    fun h => hws h.1 h.2

/-! ## The statements -/

/-- Settles O23: each component is one Fp function of the source words, which are below p. -/
theorem fp2LinearRules : Obligations.Fp2LinearRules := by
  intro s rd rs1 rs2 a0 a1 b0 b1 fits3 fits2
  refine ⟨?add, ?sub, ?neg, ?dbl, ?mulnr, ?conj, rs2Reserved_of_twoW rfl, rs2Reserved_of_twoW rfl,
    rs2Reserved_of_twoW rfl, rs2Reserved_of_twoW rfl⟩
  case add =>
    exact commandRule_twoOperands rfl rfl rfl rfl rfl rfl fun _ _ =>
      fp2_words_eq (addp_eq_modP _ _) (addp_eq_modP _ _)
  case sub =>
    refine commandRule_twoOperands rfl rfl rfl rfl rfl rfl fun _ hb => ?_
    obtain ⟨hb0, hb1⟩ := canon_rdFp2 hb
    exact fp2_words_eq (subp_eq_modP _ hb0) (subp_eq_modP _ hb1)
  case neg =>
    refine commandRule_oneOperand rfl rfl rfl rfl rfl rfl fun ha => ?_
    obtain ⟨ha0, ha1⟩ := canon_rdFp2 ha
    exact fp2_words_eq (negp_eq_modP ha0) (negp_eq_modP ha1)
  case dbl =>
    exact commandRule_oneOperand rfl rfl rfl rfl rfl rfl fun _ =>
      fp2_words_eq (addp_self_eq_modP _) (addp_self_eq_modP _)
  case mulnr =>
    refine commandRule_oneOperand rfl rfl rfl rfl rfl rfl fun ha => ?_
    exact fp2_words_eq (subp_eq_modP _ (canon_rdFp2 ha).2) (addp_eq_modP _ _)
  case conj =>
    refine commandRule_oneOperand rfl rfl rfl rfl rfl rfl fun ha => ?_
    obtain ⟨ha0, ha1⟩ := canon_rdFp2 ha
    exact fp2_words_eq (eq_modP_of_lt ha0) (negp_eq_modP ha1)

/-- Settles O24: the words are those of `f2mul`, of the operand with itself for F2SQR. -/
theorem fp2ProductRules : Obligations.Fp2ProductRules := by
  intro s rd rs1 rs2 a0 a1 b0 b1
  let a := s.rdFp2 rs1.toNat
  let b := s.rdFp2 rs2.toNat
  obtain ⟨hmul0, hmul1⟩ := f2mul_canon a b
  obtain ⟨hsqr0, hsqr1⟩ := f2mul_canon a a
  refine ⟨⟨_, _, hmul0, hmul1, f2mul_c0_modEq a b, f2mul_c1_modEq a b, ?mul⟩,
    ⟨_, _, hsqr0, hsqr1, f2mul_c0_modEq a a, f2mul_self_c1_modEq a, ?sqr⟩, rs2Reserved_of_twoW rfl⟩
  case mul => exact commandRule_twoOperands rfl rfl rfl rfl rfl rfl fun _ _ => rfl
  case sqr =>
    exact commandRule_oneOperand rfl rfl rfl rfl rfl rfl fun ha =>
      congrArg Fp2.words (f2sqr_eq_f2mul (canon_rdFp2 ha))

/-- Settles O25: the value is the one FERMAT mode gives, and the modes agree on the norm. -/
theorem f2invInvertsInBothModes : Obligations.F2invInvertsInBothModes := by
  refine ⟨fun s rd rs1 => ?_, fun _ _ _ => decode_withMode_reserved rfl⟩
  intro a
  refine ⟨f2inv .fermat a, f2inv_canon .fermat a, fun mode => ?rule, fun ha => ⟨fun hzero => ?zero,
    f2mul_f2inv .fermat (canon_rdFp2 ha)⟩⟩
  case rule =>
    exact commandRule_oneOperand rfl rfl rfl rfl rfl rfl fun _ => congrArg Fp2.words (f2inv_eq_fermat mode a)
  case zero => rw [hzero, f2inv_f2zero]

end Sys2Proof.Proofs
end

section
/-! SUPPORT. Fp2 as the field of p² elements (spec/00_scope.md R11, R16): the value of a pair of words, the Fp2 functions as
the field's operations on values, and ξ = 1 + u, which is no cube in the field. -/

namespace Sys2Proof.Proofs

open Sys2Proof Sys2Proof.Machine Sys2Proof.Laws

/-! ## The values of the Fp functions -/

theorem cast_valOf_addp (a b : Nat) : (valOf (addp a b) : ZMod Config.p) = valOf a + valOf b := by
  simp only [cast_valOf, cast_addp, add_mul]

theorem cast_valOf_subp (a : Nat) {b : Nat} (hb : b < Config.p) :
    (valOf (subp a b) : ZMod Config.p) = valOf a - valOf b := by
  simp only [cast_valOf, cast_subp a hb, sub_mul]

theorem cast_valOf_zero : (valOf 0 : ZMod Config.p) = 0 := by rw [cast_valOf, Nat.cast_zero, zero_mul]

/-- A canonical word is determined by its value. -/
theorem eq_of_cast_valOf_eq {a b : Nat} (ha : a < Config.p) (hb : b < Config.p)
    (h : (valOf a : ZMod Config.p) = valOf b) : a = b := by
  rw [← toMont_valOf ha, ← toMont_valOf hb, eq_of_cast_eq (valOf_lt a) (valOf_lt b) h]

/-! ## The field and the value of a pair of words -/

/-- The field of p² elements: ZMod p with u, where u² = −1 (R11). -/
abbrev Fq2 := QuadraticAlgebra (ZMod Config.p) (-1) 0

/-- ξ = 1 + u (R11). -/
def xi : Fq2 := ⟨1, 1⟩

/-- The field element that an Fp2 value stands for (R16, R17). -/
def f2val (a : Fp2) : Fq2 := ⟨valOf a.c0, valOf a.c1⟩

theorem eq_of_f2val_eq {a b : Fp2} (ha : Canon2 a) (hb : Canon2 b) (h : f2val a = f2val b) : a = b :=
  congrArg₂ Fp2.mk (eq_of_cast_valOf_eq ha.1 hb.1 (congrArg QuadraticAlgebra.re h))
    (eq_of_cast_valOf_eq ha.2 hb.2 (congrArg QuadraticAlgebra.im h))

@[simp] theorem f2val_f2zero : f2val f2zero = 0 := QuadraticAlgebra.ext cast_valOf_zero cast_valOf_zero

@[simp] theorem f2val_f2one : f2val f2one = 1 := QuadraticAlgebra.ext cast_valOf_one cast_valOf_zero

@[simp] theorem f2val_f2add (a b : Fp2) : f2val (f2add a b) = f2val a + f2val b :=
  QuadraticAlgebra.ext (cast_valOf_addp _ _) (cast_valOf_addp _ _)

@[simp] theorem f2val_f2sub (a : Fp2) {b : Fp2} (hb : Canon2 b) : f2val (f2sub a b) = f2val a - f2val b :=
  QuadraticAlgebra.ext (cast_valOf_subp _ hb.1) (cast_valOf_subp _ hb.2)

@[simp] theorem f2val_f2mul (a b : Fp2) : f2val (f2mul a b) = f2val a * f2val b := by
  refine QuadraticAlgebra.ext ?re ?im
  case re =>
    simp only [f2val, QuadraticAlgebra.re_mul, cast_valOf, cast_f2mul_c0]
    ring
  case im =>
    simp only [f2val, QuadraticAlgebra.im_mul, cast_valOf, cast_f2mul_c1]
    ring

@[simp] theorem f2val_f2sqr {a : Fp2} (ha : Canon2 a) : f2val (f2sqr a) = f2val a * f2val a := by
  rw [f2sqr_eq_f2mul ha, f2val_f2mul]

@[simp] theorem f2val_f2mulnr {a : Fp2} (ha : Canon2 a) : f2val (f2mulnr a) = xi * f2val a := by
  refine QuadraticAlgebra.ext ?re ?im
  case re =>
    simp only [f2val, f2mulnr, xi, QuadraticAlgebra.re_mul, cast_valOf_subp _ ha.2]
    ring
  case im =>
    simp only [f2val, f2mulnr, xi, QuadraticAlgebra.im_mul, cast_valOf_addp]
    ring

/-! ## No zero divisors, and ξ is no cube -/

theorem norm_fq2 (x : Fq2) : x.norm = x.re ^ 2 + x.im ^ 2 := by
  rw [QuadraticAlgebra.norm_def]
  ring

/-- −1 is no square modulo p: what makes `Fq2` a field. -/
theorem fq2_fact : Fact (∀ r : ZMod Config.p, r ^ 2 ≠ -1 + 0 * r) := by
  have := p_fact
  refine ⟨fun r h => one_ne_zero (eq_zero_of_sq_add_sq (x := r) (y := 1) ?_).2⟩
  rw [h]
  ring

theorem norm_fq2_eq_zero_iff (x : Fq2) : x.norm = 0 ↔ x = 0 := by
  have := p_fact
  have := fq2_fact
  exact QuadraticAlgebra.norm_eq_zero_iff_eq_zero

theorem pow_eq_one_iff_powMod (a : Nat) {e : Nat} (he : e < 2 ^ 400) :
    (a : ZMod Config.p) ^ e = 1 ↔ powMod Config.p 400 a e 1 % Config.p = 1 := by
  rw [powMod_eq _ _ _ _ _ he, one_mul, ← Nat.cast_pow, ← Nat.cast_one, ZMod.natCast_eq_natCast_iff',
    Nat.mod_eq_of_lt p_prime.one_lt]

theorem two_pow_third_ne_one : ((2 : Nat) : ZMod Config.p) ^ ((Config.p - 1) / 3) ≠ 1 :=
  mt (pow_eq_one_iff_powMod 2 (by decide +kernel)).1 (by decide +kernel)

/-- 2 is no cube modulo p: its power to (p − 1)/3 is not 1. -/
theorem eq_zero_of_cube_eq_two_mul_cube {b c : ZMod Config.p} (h : b ^ 3 = (2 : Nat) * c ^ 3) : c = 0 := by
  have := p_fact
  by_contra hc
  have hb : b ≠ 0 := by
    rintro rfl
    exact mul_ne_zero (cast_ne_zero two_pos two_lt_p) (pow_ne_zero 3 hc) (h.symm.trans (zero_pow three_ne_zero))
  have hthird : 3 * ((Config.p - 1) / 3) = Config.p - 1 := by decide +kernel
  have hpow := congrArg (· ^ ((Config.p - 1) / 3)) h
  simp only [mul_pow, ← pow_mul, hthird, ZMod.pow_card_sub_one_eq_one hb, ZMod.pow_card_sub_one_eq_one hc,
    mul_one] at hpow
  exact two_pow_third_ne_one hpow.symm

/-- ξ is no cube, since its norm 2 is none. -/
theorem eq_zero_of_cube_eq_xi_mul_cube {b c : Fq2} (h : b ^ 3 = xi * c ^ 3) : c = 0 := by
  have hxi : xi.norm = (2 : Nat) := by rw [norm_fq2, xi]; norm_num
  have hnorm := congrArg QuadraticAlgebra.norm h
  rw [map_pow, map_mul, map_pow, hxi] at hnorm
  exact (norm_fq2_eq_zero_iff c).1 (eq_zero_of_cube_eq_two_mul_cube hnorm)

end Sys2Proof.Proofs
end

section
/-! SUPPORT. The Fp6 functions (spec/43_fp6.md R190 to R198): the values of the product, the Karatsuba and sparse forms of
it, and the inverse through the norm to Fp2, which is 0 for 0 alone. -/

namespace Sys2Proof.Proofs

open Sys2Proof Sys2Proof.Machine Sys2Proof.Laws

theorem fp6_eq_of_f2val_eq {a b : Fp6} (ha : Canon6 a) (hb : Canon6 b) (h0 : f2val a.c0 = f2val b.c0)
    (h1 : f2val a.c1 = f2val b.c1) (h2 : f2val a.c2 = f2val b.c2) : a = b := by
  obtain ⟨ha0, ha1, ha2⟩ := ha
  obtain ⟨hb0, hb1, hb2⟩ := hb
  exact (Fp6.mk.injEq ..).mpr ⟨eq_of_f2val_eq ha0 hb0 h0, eq_of_f2val_eq ha1 hb1 h1, eq_of_f2val_eq ha2 hb2 h2⟩

theorem f6zero_canon : Canon6 f6zero := ⟨f2zero_canon, f2zero_canon, f2zero_canon⟩

/-! ## The product (R193 to R195) -/

@[simp] theorem f2val_f6mul_c0 (a b : Fp6) :
    f2val (f6mul a b).c0 =
      f2val a.c0 * f2val b.c0 + xi * (f2val a.c1 * f2val b.c2 + f2val a.c2 * f2val b.c1) := by
  simp [f6mul, f2add_canon]

@[simp] theorem f2val_f6mul_c1 (a b : Fp6) :
    f2val (f6mul a b).c1 =
      f2val a.c0 * f2val b.c1 + f2val a.c1 * f2val b.c0 + xi * (f2val a.c2 * f2val b.c2) := by
  simp [f6mul, f2mul_canon]

@[simp] theorem f2val_f6mul_c2 (a b : Fp6) :
    f2val (f6mul a b).c2 = f2val a.c0 * f2val b.c2 + f2val a.c1 * f2val b.c1 + f2val a.c2 * f2val b.c0 := by
  simp [f6mul]

/-- Each difference of the six-product form is the pair of products that the value formula adds (R193, C4). -/
theorem f6mulKaratsuba_eq_f6mul (a b : Fp6) : f6mulKaratsuba a b = f6mul a b := by
  refine fp6_eq_of_f2val_eq ⟨f2add_canon _ _, f2add_canon _ _, f2add_canon _ _⟩ (f6mul_canon a b) ?c0 ?c1 ?c2
  case c0 =>
    simp only [f6mulKaratsuba, f2val_f6mul_c0, f2val_f2add, f2val_f2mulnr (f2sub_canon _ _),
      f2val_f2sub _ (f2mul_canon _ _), f2val_f2mul]
    ring
  case c1 =>
    simp only [f6mulKaratsuba, f2val_f6mul_c1, f2val_f2add, f2val_f2mulnr (f2mul_canon _ _),
      f2val_f2sub _ (f2mul_canon _ _), f2val_f2mul]
    ring
  case c2 =>
    simp only [f6mulKaratsuba, f2val_f6mul_c2, f2val_f2add, f2val_f2sub _ (f2mul_canon _ _), f2val_f2mul]
    ring

/-- The dense product by (b0, b1, 0) has three products by 0. -/
theorem f6mul01_eq_f6mul (a : Fp6) (b0 b1 : Fp2) : f6mul01 a b0 b1 = f6mul a ⟨b0, b1, f2zero⟩ := by
  refine fp6_eq_of_f2val_eq (f6mul01_canon a b0 b1) (f6mul_canon _ _) ?c0 ?c1 ?c2
  case c0 => simp [f6mul01, f2mul_canon]
  case c1 => simp [f6mul01]
  case c2 => simp [f6mul01]

/-- The dense product by (0, b1, 0) has six products by 0. -/
theorem f6mul1_eq_f6mul (a : Fp6) (b1 : Fp2) : f6mul1 a b1 = f6mul a ⟨f2zero, b1, f2zero⟩ := by
  refine fp6_eq_of_f2val_eq (f6mul1_canon a b1) (f6mul_canon _ _) ?c0 ?c1 ?c2
  case c0 => simp [f6mul1, f2mul_canon]
  case c1 => simp [f6mul1]
  case c2 => simp [f6mul1]

theorem f6mul_f6zero (a : Fp6) : f6mul a f6zero = f6zero := by
  refine fp6_eq_of_f2val_eq (f6mul_canon _ _) f6zero_canon ?c0 ?c1 ?c2
  case c0 => simp [f6zero]
  case c1 => simp [f6zero]
  case c2 => simp [f6zero]

/-! ## The inverse (R197) -/

/-- The cofactor (t0, t1, t2) of R197, whose product with a is the norm of a. -/
def f6cofactor (a : Fp6) : Fp6 :=
  ⟨f2sub (f2sqr a.c0) (f2mulnr (f2mul a.c1 a.c2)), f2sub (f2mulnr (f2sqr a.c2)) (f2mul a.c0 a.c1),
   f2sub (f2sqr a.c1) (f2mul a.c0 a.c2)⟩

/-- The norm n of R197, in Fp2. -/
def f6norm (a : Fp6) : Fp2 :=
  f2add (f2mul a.c0 (f6cofactor a).c0)
    (f2mulnr (f2add (f2mul a.c2 (f6cofactor a).c1) (f2mul a.c1 (f6cofactor a).c2)))

theorem f6inv_eq (mode : InvMode) (a : Fp6) :
    f6inv mode a =
      ⟨f2mul (f6cofactor a).c0 (f2inv mode (f6norm a)), f2mul (f6cofactor a).c1 (f2inv mode (f6norm a)),
       f2mul (f6cofactor a).c2 (f2inv mode (f6norm a))⟩ := rfl

theorem f6norm_canon (a : Fp6) : Canon2 (f6norm a) := f2add_canon _ _

theorem f6inv_eq_fermat (mode : InvMode) (a : Fp6) : f6inv mode a = f6inv .fermat a := by
  rw [f6inv_eq, f6inv_eq, f2inv_eq_fermat mode]

theorem f6inv_f6zero (mode : InvMode) : f6inv mode f6zero = f6zero := by
  have hnorm : f6norm f6zero = f2zero :=
    eq_of_f2val_eq (f6norm_canon _) f2zero_canon (by simp [f6norm, f6zero, f2add_canon])
  have hmul (t : Fp2) : f2mul t f2zero = f2zero :=
    eq_of_f2val_eq (f2mul_canon _ _) f2zero_canon (by simp)
  rw [f6inv_eq, hnorm, f2inv_f2zero, hmul, hmul, hmul, f6zero]

section Values

variable {a : Fp6} (ha : Canon6 a)
include ha

theorem f2val_f6cofactor_c0 :
    f2val (f6cofactor a).c0 = f2val a.c0 ^ 2 - xi * (f2val a.c1 * f2val a.c2) := by
  obtain ⟨h0, -, -⟩ := ha
  simp [f6cofactor, h0, f2mul_canon, f2mulnr_canon, pow_two]

theorem f2val_f6cofactor_c1 :
    f2val (f6cofactor a).c1 = xi * f2val a.c2 ^ 2 - f2val a.c0 * f2val a.c1 := by
  obtain ⟨-, -, h2⟩ := ha
  simp [f6cofactor, h2, f2mul_canon, f2sqr_canon, pow_two]

theorem f2val_f6cofactor_c2 :
    f2val (f6cofactor a).c2 = f2val a.c1 ^ 2 - f2val a.c0 * f2val a.c2 := by
  obtain ⟨-, h1, -⟩ := ha
  simp [f6cofactor, h1, f2mul_canon, pow_two]

theorem f2val_f6norm :
    f2val (f6norm a) =
      f2val a.c0 ^ 3 + xi * f2val a.c1 ^ 3 + xi ^ 2 * f2val a.c2 ^ 3 -
        3 * xi * (f2val a.c0 * f2val a.c1 * f2val a.c2) := by
  simp only [f6norm, f2val_f2add, f2val_f2mulnr (f2add_canon _ _), f2val_f2mul, f2val_f6cofactor_c0 ha,
    f2val_f6cofactor_c1 ha, f2val_f6cofactor_c2 ha]
  ring

end Values

/-- The only common zero of the three forms of the cofactor is 0, since ξ is no cube. -/
theorem eq_zero_of_cofactor_eq_zero {x y z : Fq2} (h0 : x ^ 2 = xi * (y * z)) (h1 : xi * z ^ 2 = x * y)
    (h2 : y ^ 2 = x * z) : x = 0 ∧ y = 0 ∧ z = 0 := by
  have := p_fact
  have := fq2_fact
  have hz : z = 0 := eq_zero_of_cube_eq_xi_mul_cube (b := y) (by linear_combination y * h2 - z * h1)
  have hx : x ^ 2 = 0 := by rw [h0, hz, mul_zero, mul_zero]
  have hy : y ^ 2 = 0 := by rw [h2, hz, mul_zero]
  exact ⟨(pow_eq_zero_iff two_ne_zero).1 hx, (pow_eq_zero_iff two_ne_zero).1 hy, hz⟩

/-- Where the norm form is 0, the cofactor is a common zero of its own cofactor's forms, hence 0, and so is the value. -/
theorem eq_zero_of_norm_form_eq_zero {x y z : Fq2}
    (h : x ^ 3 + xi * y ^ 3 + xi ^ 2 * z ^ 3 - 3 * xi * (x * y * z) = 0) : x = 0 ∧ y = 0 ∧ z = 0 := by
  obtain ⟨h0, h1, h2⟩ := eq_zero_of_cofactor_eq_zero
    (x := x ^ 2 - xi * (y * z)) (y := xi * z ^ 2 - x * y) (z := y ^ 2 - x * z)
    (by linear_combination x * h) (by linear_combination y * h) (by linear_combination z * h)
  exact eq_zero_of_cofactor_eq_zero (sub_eq_zero.1 h0) (sub_eq_zero.1 h1) (sub_eq_zero.1 h2)

theorem f6norm_ne_zero {a : Fp6} (ha : Canon6 a) (hne : a ≠ f6zero) : f6norm a ≠ f2zero := by
  intro hzero
  have hform := f2val_f6norm ha
  rw [hzero, f2val_f2zero] at hform
  obtain ⟨h0, h1, h2⟩ := eq_zero_of_norm_form_eq_zero hform.symm
  exact hne (fp6_eq_of_f2val_eq ha f6zero_canon (by rw [h0, f6zero, f2val_f2zero]) (by rw [h1, f6zero, f2val_f2zero])
    (by rw [h2, f6zero, f2val_f2zero]))

/-- The product with the cofactor is the norm, whose inverse in Fp2 makes it F6ONE. -/
theorem f6mul_f6inv (mode : InvMode) {a : Fp6} (ha : Canon6 a) (hne : a ≠ f6zero) :
    f6mul a (f6inv mode a) = f6one := by
  have hinv := congrArg f2val (f2mul_f2inv mode (f6norm_canon a) (f6norm_ne_zero ha hne))
  rw [f2val_f2mul, f2val_f6norm ha, f2val_f2one] at hinv
  refine fp6_eq_of_f2val_eq (f6mul_canon _ _) ⟨f2one_canon, f2zero_canon, f2zero_canon⟩ ?c0 ?c1 ?c2
  all_goals
    simp only [f6inv_eq, f6one, f2val_f6mul_c0, f2val_f6mul_c1, f2val_f6mul_c2, f2val_f2mul, f2val_f2one,
      f2val_f2zero, f2val_f6cofactor_c0 ha, f2val_f6cofactor_c1 ha, f2val_f6cofactor_c2 ha]
  case c0 => linear_combination hinv
  case c1 => ring
  case c2 => ring

/-- Settles O30, by the norm to Fp2. -/
theorem f6invInverts : Obligations.F6invInverts := fun mode _ => f6mul_f6inv mode

end Sys2Proof.Proofs
end

section
/-! SUPPORT. The Fp6 commands (spec/43_fp6.md R190 to R199), and F12INV, whose inversion is that of Fp6 (spec/44_fp12.md
R215): the words that each of them writes. -/

namespace Sys2Proof.Proofs

open Sys2Proof Sys2Proof.Machine Sys2Proof.Laws

/-! ## The words of the linear functions (R190 to R192, R198) -/

theorem f2add_words (a b : Fp2) :
    (f2add a b).words = [fw (modP (a.c0 + b.c0)), fw (modP (a.c1 + b.c1))] :=
  fp2_words_eq (addp_eq_modP _ _) (addp_eq_modP _ _)

theorem f2sub_words (a : Fp2) {b : Fp2} (hb : Canon2 b) :
    (f2sub a b).words = [fw (modP (a.c0 - b.c0)), fw (modP (a.c1 - b.c1))] :=
  fp2_words_eq (subp_eq_modP _ hb.1) (subp_eq_modP _ hb.2)

theorem f2neg_words {a : Fp2} (ha : Canon2 a) : (f2neg a).words = [fw (modP (-a.c0)), fw (modP (-a.c1))] :=
  fp2_words_eq (negp_eq_modP ha.1) (negp_eq_modP ha.2)

theorem f2mulnr_words {a : Fp2} (ha : Canon2 a) :
    (f2mulnr a).words = [fw (modP (a.c0 - a.c1)), fw (modP (a.c0 + a.c1))] :=
  fp2_words_eq (subp_eq_modP _ ha.2) (addp_eq_modP _ _)

theorem fp2_words_of_canon {a : Fp2} (ha : Canon2 a) : a.words = [fw (modP a.c0), fw (modP a.c1)] :=
  fp2_words_eq (eq_modP_of_lt ha.1) (eq_modP_of_lt ha.2)

section Words

variable (s : State) (x y : Nat)

theorem f6add_words :
    (f6add (s.rdFp6 x) (s.rdFp6 y)).words =
      (List.range 6).map fun j => fw (modP ((s.readW (x + j)).toNat + (s.readW (y + j)).toNat)) := by
  rw [f6add, Fp6.words, f2add_words, f2add_words, f2add_words]
  rfl

variable {x y}

theorem f6sub_words (hy : Canon6 (s.rdFp6 y)) :
    (f6sub (s.rdFp6 x) (s.rdFp6 y)).words =
      (List.range 6).map fun j => fw (modP ((s.readW (x + j)).toNat - (s.readW (y + j)).toNat)) := by
  obtain ⟨h0, h1, h2⟩ := hy
  rw [f6sub, Fp6.words, f2sub_words _ h0, f2sub_words _ h1, f2sub_words _ h2]
  rfl

theorem f6neg_words (hx : Canon6 (s.rdFp6 x)) :
    (f6neg (s.rdFp6 x)).words = (List.range 6).map fun j => fw (modP (-(s.readW (x + j)).toNat)) := by
  obtain ⟨h0, h1, h2⟩ := hx
  rw [f6neg, Fp6.words, f2neg_words h0, f2neg_words h1, f2neg_words h2]
  rfl

end Words

theorem f6mulnr_words {a : Fp6} (ha : Canon6 a) :
    (f6mulnr a).words =
      [fw (modP (a.c2.c0 - a.c2.c1)), fw (modP (a.c2.c0 + a.c2.c1)), fw (modP a.c0.c0), fw (modP a.c0.c1),
        fw (modP a.c1.c0), fw (modP a.c1.c1)] := by
  obtain ⟨h0, h1, h2⟩ := ha
  rw [f6mulnr, Fp6.words, f2mulnr_words h2, fp2_words_of_canon h0, fp2_words_of_canon h1]
  rfl

/-! ## The Fp12 inverse (R215) -/

theorem f12inv_eq (mode : InvMode) (a : Fp12) :
    f12inv mode a =
      ⟨f6mul a.c0 (f6inv mode (f6sub (f6sqr a.c0) (f6mulnr (f6sqr a.c1)))),
       f6neg (f6mul a.c1 (f6inv mode (f6sub (f6sqr a.c0) (f6mulnr (f6sqr a.c1)))))⟩ := rfl

theorem f12inv_eq_fermat (mode : InvMode) (a : Fp12) : f12inv mode a = f12inv .fermat a := by
  rw [f12inv_eq, f12inv_eq, f6inv_eq_fermat mode]

/-- The norm of 0 is 0, and 0 is the inverse of 0 in Fp6. -/
theorem f12inv_zero (mode : InvMode) : f12inv mode ⟨f6zero, f6zero⟩ = ⟨f6zero, f6zero⟩ := by
  have hnorm : f6sub (f6sqr f6zero) (f6mulnr (f6sqr f6zero)) = f6zero := by rw [f6sqr, f6mul_f6zero]; rfl
  have hneg : f6neg f6zero = f6zero := rfl
  rw [f12inv_eq, hnorm, f6inv_f6zero, f6mul_f6zero, hneg]

/-! ## The statements -/

/-- Settles O26: each word is one Fp function of the source words, which are below p. -/
theorem fp6LinearRules : Obligations.Fp6LinearRules := by
  intro s rd rs1 rs2 a b fits3 fits2
  refine ⟨?add, ?sub, ?neg, ?mulnr, rs2Reserved_of_twoW rfl, rs2Reserved_of_twoW rfl⟩
  case add => exact commandRule_twoOperands rfl rfl rfl rfl rfl rfl fun _ _ => f6add_words s _ _
  case sub => exact commandRule_twoOperands rfl rfl rfl rfl rfl rfl fun _ hb => f6sub_words s (canon_rdFp6 hb)
  case neg => exact commandRule_oneOperand rfl rfl rfl rfl rfl rfl fun ha => f6neg_words s (canon_rdFp6 ha)
  case mulnr => exact commandRule_oneOperand rfl rfl rfl rfl rfl rfl fun ha => f6mulnr_words (canon_rdFp6 ha)

/-- Settles O27: the model's product is the value formula, and the Karatsuba form has the same values. -/
theorem fp6ProductRules : Obligations.Fp6ProductRules := by
  intro s rd rs1 rs2 a b value
  exact ⟨commandRule_twoOperands rfl rfl rfl rfl rfl rfl fun _ _ => rfl,
    commandRule_oneOperand rfl rfl rfl rfl rfl rfl fun _ => rfl,
    rs2Reserved_of_twoW rfl, fun x y _ _ => f6mulKaratsuba_eq_f6mul x y⟩

/-- Settles O28: the dense product's other terms are products by 0. -/
theorem sparseFp6ProductsEqualDense : Obligations.SparseFp6ProductsEqualDense := by
  intro s rd rs1 rs2 a b0 b1
  exact ⟨commandRule_twoOperands rfl rfl rfl rfl rfl rfl fun _ _ => congrArg Fp6.words (f6mul01_eq_f6mul a b0 b1),
    commandRule_twoOperands rfl rfl rfl rfl rfl rfl fun _ _ => congrArg Fp6.words (f6mul1_eq_f6mul a b0)⟩

/-- Settles O29: the mode is used for one inversion in Fp2, where both modes agree. -/
theorem towerInversionRules : Obligations.TowerInversionRules := by
  refine ⟨fun s rd rs1 mode => ⟨?f6inv, ?f12inv⟩, f6inv_f6zero .fermat, f12inv_zero .fermat,
    fun _ _ _ h => ⟨decode_withMode_reserved rfl h, decode_withMode_reserved rfl h⟩⟩
  case f6inv =>
    exact commandRule_oneOperand rfl rfl rfl rfl rfl rfl fun _ => congrArg Fp6.words (f6inv_eq_fermat mode _)
  case f12inv =>
    exact commandRule_oneOperand rfl rfl rfl rfl rfl rfl fun _ => congrArg Fp12.words (f12inv_eq_fermat mode _)

end Sys2Proof.Proofs
end

section
/-! SUPPORT. The Fp12 functions (spec/44_fp12.md R210 to R216): the Karatsuba product and the product by a line as the
value formula, and the inverse through the norm to Fp6, which is 0 for 0 alone since v is no square. -/

namespace Sys2Proof.Proofs

open Sys2Proof Sys2Proof.Machine Sys2Proof.Laws

/-! ## The values of the linear Fp6 functions (R190 to R192, R198) -/

@[simp] theorem f2val_f2neg {a : Fp2} (ha : Canon2 a) : f2val (f2neg a) = -f2val a := by
  refine QuadraticAlgebra.ext ?re ?im
  case re => simp only [f2val, f2neg, QuadraticAlgebra.re_neg, cast_valOf, cast_negp ha.1, neg_mul]
  case im => simp only [f2val, f2neg, QuadraticAlgebra.im_neg, cast_valOf, cast_negp ha.2, neg_mul]

section Components

variable (a b : Fp6)

@[simp] theorem f2val_f6add_c0 : f2val (f6add a b).c0 = f2val a.c0 + f2val b.c0 := f2val_f2add _ _
@[simp] theorem f2val_f6add_c1 : f2val (f6add a b).c1 = f2val a.c1 + f2val b.c1 := f2val_f2add _ _
@[simp] theorem f2val_f6add_c2 : f2val (f6add a b).c2 = f2val a.c2 + f2val b.c2 := f2val_f2add _ _

@[simp] theorem f6mulnr_c1 : (f6mulnr a).c1 = a.c0 := rfl
@[simp] theorem f6mulnr_c2 : (f6mulnr a).c2 = a.c1 := rfl

variable {b} (hb : Canon6 b)
include hb

@[simp] theorem f2val_f6sub_c0 : f2val (f6sub a b).c0 = f2val a.c0 - f2val b.c0 := f2val_f2sub _ hb.1
@[simp] theorem f2val_f6sub_c1 : f2val (f6sub a b).c1 = f2val a.c1 - f2val b.c1 := f2val_f2sub _ hb.2.1
@[simp] theorem f2val_f6sub_c2 : f2val (f6sub a b).c2 = f2val a.c2 - f2val b.c2 := f2val_f2sub _ hb.2.2

@[simp] theorem f2val_f6neg_c0 : f2val (f6neg b).c0 = -f2val b.c0 := f2val_f2neg hb.1
@[simp] theorem f2val_f6neg_c1 : f2val (f6neg b).c1 = -f2val b.c1 := f2val_f2neg hb.2.1
@[simp] theorem f2val_f6neg_c2 : f2val (f6neg b).c2 = -f2val b.c2 := f2val_f2neg hb.2.2

@[simp] theorem f2val_f6mulnr_c0 : f2val (f6mulnr b).c0 = xi * f2val b.c2 := f2val_f2mulnr hb.2.2

end Components

/-! ## The product (R212 to R214) -/

/-- The product of the sums less two products leaves the cross products (R212). -/
theorem f6mul_cross (a0 a1 b0 b1 : Fp6) :
    f6sub (f6sub (f6mul (f6add a0 a1) (f6add b0 b1)) (f6mul a0 b0)) (f6mul a1 b1) =
      f6add (f6mul a0 b1) (f6mul a1 b0) := by
  refine fp6_eq_of_f2val_eq (f6sub_canon _ _) (f6add_canon _ _) ?c0 ?c1 ?c2
  all_goals
    simp only [f2val_f6sub_c0, f2val_f6sub_c1, f2val_f6sub_c2, f2val_f6add_c0, f2val_f6add_c1, f2val_f6add_c2,
      f2val_f6mul_c0, f2val_f6mul_c1, f2val_f6mul_c2, f6mul_canon]
    ring

theorem f12mul_eq (a b : Fp12) :
    f12mul a b =
      ⟨f6add (f6mul a.c0 b.c0) (f6mulnr (f6mul a.c1 b.c1)), f6add (f6mul a.c0 b.c1) (f6mul a.c1 b.c0)⟩ :=
  congrArg (Fp12.mk _) (f6mul_cross a.c0 a.c1 b.c0 b.c1)

theorem f2add_f2zero {a : Fp2} (ha : Canon2 a) : f2add a f2zero = a :=
  eq_of_f2val_eq (f2add_canon _ _) ha (by simp)

/-- The two halves of a line have (l0, l1 + l4, 0) as their sum, so that each sparse product is a dense one (R214). -/
theorem f12mul014_eq_f12mul (a : Fp12) {l0 : Fp2} (l1 l4 : Fp2) (h0 : Canon2 l0) :
    f12mul014 a l0 l1 l4 = f12mul a ⟨⟨l0, l1, f2zero⟩, ⟨f2zero, l4, f2zero⟩⟩ := by
  have hsum : f6add ⟨l0, l1, f2zero⟩ ⟨f2zero, l4, f2zero⟩ = ⟨l0, f2add l1 l4, f2zero⟩ := by
    rw [f6add, f2add_f2zero h0, f2add_f2zero f2zero_canon]
  simp only [f12mul014, f12mul, f6mul01_eq_f6mul, f6mul1_eq_f6mul, hsum]

/-! ## v is no square -/

theorem p_mod_eight : Config.p % 8 = 3 := by decide +kernel

/-- 2 is no square modulo p. -/
theorem eq_zero_of_sq_eq_two_mul_sq {b c : ZMod Config.p} (h : b ^ 2 = 2 * c ^ 2) : c = 0 := by
  have := p_fact
  by_contra hc
  have hsquare : IsSquare (2 : ZMod Config.p) := ⟨b / c, by field_simp; exact h.symm⟩
  have hmod := (ZMod.exists_sq_eq_two_iff two_lt_p.ne').1 hsquare
  have := p_mod_eight
  omega

/-- ξ is no square, since its norm 2 is none. -/
theorem eq_zero_of_sq_eq_xi_mul_sq {b c : Fq2} (h : b ^ 2 = xi * c ^ 2) : c = 0 := by
  have hxi : xi.norm = 2 := by rw [norm_fq2, xi]; norm_num
  have hnorm := congrArg QuadraticAlgebra.norm h
  rw [map_pow, map_mul, map_pow, hxi] at hnorm
  exact (norm_fq2_eq_zero_iff c).1 (eq_zero_of_sq_eq_two_mul_sq hnorm)

theorem f6norm_f6mul {a b : Fp6} (ha : Canon6 a) (hb : Canon6 b) :
    f6norm (f6mul a b) = f2mul (f6norm a) (f6norm b) := by
  refine eq_of_f2val_eq (f6norm_canon _) (f2mul_canon _ _) ?_
  simp only [f2val_f6norm (f6mul_canon a b), f2val_f2mul, f2val_f6norm ha, f2val_f6norm hb, f2val_f6mul_c0,
    f2val_f6mul_c1, f2val_f6mul_c2]
  ring

/-- The norm of v is ξ. -/
theorem f6norm_f6mulnr {a : Fp6} (ha : Canon6 a) : f6norm (f6mulnr a) = f2mulnr (f6norm a) := by
  refine eq_of_f2val_eq (f6norm_canon _) (f2mulnr_canon _) ?_
  simp only [f2val_f6norm (f6mulnr_canon ha), f2val_f2mulnr (f6norm_canon a), f2val_f6norm ha, f2val_f6mulnr_c0 ha,
    f6mulnr_c1, f6mulnr_c2]
  ring

theorem eq_f6zero_of_f2val_f6norm_eq_zero {a : Fp6} (ha : Canon6 a) (h : f2val (f6norm a) = 0) : a = f6zero := by
  by_contra hne
  exact f6norm_ne_zero ha hne (eq_of_f2val_eq (f6norm_canon a) f2zero_canon (h.trans f2val_f2zero.symm))

/-- An equation a² = v·b² in Fp6 becomes one of a square with ξ times a square under the norm to Fp2. -/
theorem eq_f6zero_of_sqr_eq_mulnr_sqr {a b : Fp6} (ha : Canon6 a) (hb : Canon6 b)
    (h : f6sqr a = f6mulnr (f6sqr b)) : a = f6zero ∧ b = f6zero := by
  have := p_fact
  have := fq2_fact
  have hnorm := congrArg (fun x => f2val (f6norm x)) h
  simp only [f6sqr, f6norm_f6mulnr (f6mul_canon b b), f6norm_f6mul ha ha, f6norm_f6mul hb hb, f2val_f2mul,
    f2val_f2mulnr (f2mul_canon _ _), ← pow_two] at hnorm
  have hzero := eq_zero_of_sq_eq_xi_mul_sq hnorm
  rw [hzero, zero_pow two_ne_zero, mul_zero, pow_eq_zero_iff two_ne_zero] at hnorm
  exact ⟨eq_f6zero_of_f2val_f6norm_eq_zero ha hnorm, eq_f6zero_of_f2val_f6norm_eq_zero hb hzero⟩

/-! ## The inverse (R215) -/

/-- The norm a0² − v·a1² of R215, in Fp6. -/
def f12norm (a : Fp12) : Fp6 := f6sub (f6sqr a.c0) (f6mulnr (f6sqr a.c1))

theorem f12inv_eq_f12norm (mode : InvMode) (a : Fp12) :
    f12inv mode a = ⟨f6mul a.c0 (f6inv mode (f12norm a)), f6neg (f6mul a.c1 (f6inv mode (f12norm a)))⟩ := rfl

theorem f12norm_canon (a : Fp12) : Canon6 (f12norm a) := f6sub_canon _ _

/-- A difference is 0 only of equal values. -/
theorem f6_eq_of_f6sub_eq_f6zero {a b : Fp6} (ha : Canon6 a) (hb : Canon6 b) (h : f6sub a b = f6zero) : a = b := by
  refine fp6_eq_of_f2val_eq ha hb (sub_eq_zero.1 ?c0) (sub_eq_zero.1 ?c1) (sub_eq_zero.1 ?c2)
  case c0 => rw [← f2val_f6sub_c0 a hb, h, f6zero, f2val_f2zero]
  case c1 => rw [← f2val_f6sub_c1 a hb, h, f6zero, f2val_f2zero]
  case c2 => rw [← f2val_f6sub_c2 a hb, h, f6zero, f2val_f2zero]

theorem f12norm_ne_zero {a : Fp12} (ha : Canon12 a) (hne : a ≠ ⟨f6zero, f6zero⟩) : f12norm a ≠ f6zero := by
  intro hzero
  have hsqr := f6_eq_of_f6sub_eq_f6zero (f6mul_canon _ _) (f6mulnr_canon (f6mul_canon _ _)) hzero
  obtain ⟨h0, h1⟩ := eq_f6zero_of_sqr_eq_mulnr_sqr ha.1 ha.2 hsqr
  exact hne (congrArg₂ Fp12.mk h0 h1)

/-- The first half of the product of a with its conjugate times n is its norm times n. -/
theorem mul_conj_mul_c0 (a : Fp12) (n : Fp6) :
    f6add (f6mul a.c0 (f6mul a.c0 n)) (f6mulnr (f6mul a.c1 (f6neg (f6mul a.c1 n)))) = f6mul (f12norm a) n := by
  refine fp6_eq_of_f2val_eq (f6add_canon _ _) (f6mul_canon _ _) ?c0 ?c1 ?c2
  all_goals
    simp only [f12norm, f6sqr, f2val_f6add_c0, f2val_f6add_c1, f2val_f6add_c2, f2val_f6sub_c0, f2val_f6sub_c1,
      f2val_f6sub_c2, f2val_f6neg_c0, f2val_f6neg_c1, f2val_f6neg_c2, f2val_f6mulnr_c0, f6mulnr_c1, f6mulnr_c2,
      f2val_f6mul_c0, f2val_f6mul_c1, f2val_f6mul_c2, f6mul_canon, f6mulnr_canon]
    ring

/-- In the second half of that product the two cross terms cancel. -/
theorem mul_conj_mul_c1 (a : Fp12) (n : Fp6) :
    f6add (f6mul a.c0 (f6neg (f6mul a.c1 n))) (f6mul a.c1 (f6mul a.c0 n)) = f6zero := by
  refine fp6_eq_of_f2val_eq (f6add_canon _ _) f6zero_canon ?c0 ?c1 ?c2
  all_goals
    simp only [f6zero, f2val_f2zero, f2val_f6add_c0, f2val_f6add_c1, f2val_f6add_c2, f2val_f6neg_c0, f2val_f6neg_c1,
      f2val_f6neg_c2, f2val_f6mul_c0, f2val_f6mul_c1, f2val_f6mul_c2, f6mul_canon]
    ring

/-- The product with the conjugate is the norm, whose inverse in Fp6 makes it F12ONE. -/
theorem f12mul_f12inv (mode : InvMode) {a : Fp12} (ha : Canon12 a) (hne : a ≠ ⟨f6zero, f6zero⟩) :
    f12mul a (f12inv mode a) = f12one := by
  rw [f12inv_eq_f12norm, f12mul_eq, mul_conj_mul_c0, mul_conj_mul_c1,
    f6mul_f6inv mode (f12norm_canon a) (f12norm_ne_zero ha hne), f12one]

/-- Settles O34, by the norm to Fp6. -/
theorem f12invInverts : Obligations.F12invInverts := fun mode _ => f12mul_f12inv mode

end Sys2Proof.Proofs
end

section
/-! SUPPORT. The Fp12 commands (spec/44_fp12.md R210 to R216): the words that each of them writes. -/

namespace Sys2Proof.Proofs

open Sys2Proof Sys2Proof.Machine Sys2Proof.Laws

/-! ## The words of the linear functions (R210, R211, R216) -/

/-- Twelve words are the six of the first half and the six of the second. -/
theorem map_range_twelve (f : Nat → Word) :
    (List.range 12).map f = (List.range 6).map f ++ (List.range 6).map fun j => f (6 + j) := by
  rw [List.range_add (n := 6) (m := 6), List.map_append, List.map_map, Function.comp_def]

section Words

variable (s : State) (x y : Nat)

theorem f12add_words :
    (f12add (s.rdFp12 x) (s.rdFp12 y)).words =
      (List.range 12).map fun j => fw (modP ((s.readW (x + j)).toNat + (s.readW (y + j)).toNat)) := by
  simp only [f12add, State.rdFp12, Fp12.words, f6add_words, map_range_twelve, Nat.add_assoc]

variable {x y}

theorem f12sub_words (hy : Canon12 (s.rdFp12 y)) :
    (f12sub (s.rdFp12 x) (s.rdFp12 y)).words =
      (List.range 12).map fun j => fw (modP ((s.readW (x + j)).toNat - (s.readW (y + j)).toNat)) := by
  obtain ⟨h0, h1⟩ := hy
  simp only [f12sub, Fp12.words, State.rdFp12, f6sub_words s h0, f6sub_words s h1, map_range_twelve, Nat.add_assoc]

theorem fp6_words_of_canon (hx : Canon6 (s.rdFp6 x)) :
    (s.rdFp6 x).words = (List.range 6).map fun j => fw (modP (s.readW (x + j)).toNat) := by
  obtain ⟨h0, h1, h2⟩ := hx
  rw [Fp6.words, fp2_words_of_canon h0, fp2_words_of_canon h1, fp2_words_of_canon h2]
  rfl

/-- The first half is kept and the second negated. -/
theorem f12conj_words (hx : Canon12 (s.rdFp12 x)) :
    (f12conj (s.rdFp12 x)).words =
      (List.range 12).map fun j =>
        fw (modP (if j < 6 then (s.readW (x + j)).toNat else -(s.readW (x + j)).toNat)) := by
  obtain ⟨h0, h1⟩ := hx
  rw [map_range_twelve]
  refine congrArg₂ (· ++ ·) ((fp6_words_of_canon s h0).trans ?kept) ((f6neg_words s h1).trans ?negated)
  case kept => exact List.map_congr_left fun j hj => by rw [if_pos (List.mem_range.1 hj)]
  case negated => simp only [Nat.add_assoc, Nat.not_lt.2 (Nat.le_add_right 6 _), if_false]

end Words

/-! ## The statements -/

/-- Settles O31: each half is the Fp6 function of the source's halves. -/
theorem fp12LinearRules : Obligations.Fp12LinearRules := by
  intro s rd rs1 rs2 a b
  refine ⟨?add, ?sub, ?conj, rs2Reserved_of_twoW rfl⟩
  case add => exact commandRule_twoOperands rfl rfl rfl rfl rfl rfl fun _ _ => f12add_words s _ _
  case sub => exact commandRule_twoOperands rfl rfl rfl rfl rfl rfl fun _ hb => f12sub_words s (canon_rdFp12 hb)
  case conj => exact commandRule_oneOperand rfl rfl rfl rfl rfl rfl fun ha => f12conj_words s (canon_rdFp12 ha)

/-- Settles O32: the model's Karatsuba product is the value formula. -/
theorem fp12ProductRules : Obligations.Fp12ProductRules := by
  intro s rd rs1 rs2 a b value
  refine ⟨?mul, ?sqr, rs2Reserved_of_twoW rfl⟩
  case mul => exact commandRule_twoOperands rfl rfl rfl rfl rfl rfl fun _ _ => congrArg Fp12.words (f12mul_eq a b)
  case sqr => exact commandRule_oneOperand rfl rfl rfl rfl rfl rfl fun _ => congrArg Fp12.words (f12mul_eq a a)

/-- Settles O33: the product by a line is the dense product, of canonical l0. -/
theorem lineProductEqualsDense : Obligations.LineProductEqualsDense := by
  intro s rd rs1 rs2 a l0 l1 l4
  refine commandRule_twoOperands rfl rfl rfl rfl rfl rfl fun _ hb => congrArg Fp12.words ?_
  exact f12mul014_eq_f12mul a l1 l4 (canon_rdFp2_at (k := 0) hb (by omega))

end Sys2Proof.Proofs
end

section
/-! SUPPORT. The G2 point functions (spec/45_g2.md R230 to R235): their branches by name, the chord and the tangent law on
the values of the coordinates, and the curve of spec/46_scalar_mult.md R266. -/

namespace Sys2Proof.Proofs

open Sys2Proof Sys2Proof.Machine Sys2Proof.Laws

theorem iszero_iff (P : G2) : iszero P = true ↔ P.Z = f2zero := decide_eq_true_iff

theorem g2_eq_of_f2val_eq {P Q : G2} (hP : CanonG2 P) (hQ : CanonG2 Q) (hX : f2val P.X = f2val Q.X)
    (hY : f2val P.Y = f2val Q.Y) (hZ : f2val P.Z = f2val Q.Z) : P = Q := by
  obtain ⟨hPX, hPY, hPZ⟩ := hP
  obtain ⟨hQX, hQY, hQZ⟩ := hQ
  exact (G2.mk.injEq ..).mpr ⟨eq_of_f2val_eq hPX hQX hX, eq_of_f2val_eq hPY hQY hY, eq_of_f2val_eq hPZ hQZ hZ⟩

/-! ## Multiples and powers in Fp2 -/

@[simp] theorem f2val_f2dbl (a : Fp2) : f2val (f2dbl a) = 2 * f2val a := by
  rw [two_mul]
  exact f2val_f2add a a

@[simp] theorem f2val_f2times (n : Nat) (a : Fp2) : f2val (f2times n a) = n * f2val a := by
  induction n with
  | zero => rw [f2times, f2val_f2zero, Nat.cast_zero, zero_mul]
  | succ n ih => rw [f2times, f2val_f2add, ih, Nat.cast_succ, add_mul, one_mul]

@[simp] theorem f2val_f2pow (a : Fp2) (n : Nat) : f2val (f2pow a n) = f2val a ^ n := by
  induction n with
  | zero => rw [f2pow, f2val_f2one, pow_zero]
  | succ n ih => rw [f2pow, f2val_f2mul, ih, pow_succ]

theorem f2times_canon (n : Nat) (a : Fp2) : Canon2 (f2times n a) := by
  cases n with
  | zero => exact f2zero_canon
  | succ n => exact f2add_canon _ _

theorem f2mul_f2one {a : Fp2} (ha : Canon2 a) : f2mul a f2one = a :=
  eq_of_f2val_eq (f2mul_canon _ _) ha (by simp)

/-! ## The branches of the sum (R231) -/

/-- The x of P over the common denominator of P and Q: U1 of R231, and U2 with the operands exchanged. -/
def crossX (P Q : G2) : Fp2 := f2mul P.X (f2sqr Q.Z)

/-- The y of P over the common denominator of P and Q: S1 of R231, and S2 with the operands exchanged. -/
def crossY (P Q : G2) : Fp2 := f2mul P.Y (f2mul Q.Z (f2sqr Q.Z))

/-- H of R231. -/
def chordH (P Q : G2) : Fp2 := f2sub (crossX Q P) (crossX P Q)

/-- Half of r of R231. -/
def chordR (P Q : G2) : Fp2 := f2sub (crossY Q P) (crossY P Q)

/-- The last branch of R231: the operands differ in x. -/
def chordSum (P Q : G2) : G2 :=
  let I := f2sqr (f2dbl (chordH P Q))
  let J := f2mul (chordH P Q) I
  let r := f2dbl (chordR P Q)
  let V := f2mul (crossX P Q) I
  let X3 := f2sub (f2sub (f2sqr r) J) (f2dbl V)
  ⟨X3, f2sub (f2mul r (f2sub V X3)) (f2dbl (f2mul (crossY P Q) J)),
   f2mul (f2sub (f2sub (f2sqr (f2add P.Z Q.Z)) (f2sqr P.Z)) (f2sqr Q.Z)) (chordH P Q)⟩

theorem pointAdd_eq (P Q : G2) :
    pointAdd P Q =
      if iszero P then Q
      else if iszero Q then P
      else if crossX P Q = crossX Q P then if crossY P Q = crossY Q P then pointDbl P else g2zero
      else chordSum P Q := rfl

theorem pointAdd_of_left_zero {P : G2} (Q : G2) (hP : P.Z = f2zero) : pointAdd P Q = Q :=
  (pointAdd_eq P Q).trans (if_pos ((iszero_iff P).2 hP))

section Branches

variable {P Q : G2} (hP : P.Z ≠ f2zero)
include hP

theorem pointAdd_of_right_zero (hQ : Q.Z = f2zero) : pointAdd P Q = P := by
  rw [pointAdd_eq, if_neg (mt (iszero_iff P).1 hP), if_pos ((iszero_iff Q).2 hQ)]

variable (hQ : Q.Z ≠ f2zero)
include hQ

theorem pointAdd_of_nonzero :
    pointAdd P Q =
      if crossX P Q = crossX Q P then if crossY P Q = crossY Q P then pointDbl P else g2zero
      else chordSum P Q := by
  rw [pointAdd_eq, if_neg (mt (iszero_iff P).1 hP), if_neg (mt (iszero_iff Q).1 hQ)]

theorem pointAdd_of_equal (hX : crossX P Q = crossX Q P) (hY : crossY P Q = crossY Q P) :
    pointAdd P Q = pointDbl P := by
  rw [pointAdd_of_nonzero hP hQ, if_pos hX, if_pos hY]

theorem pointAdd_of_inverse (hX : crossX P Q = crossX Q P) (hY : crossY P Q ≠ crossY Q P) :
    pointAdd P Q = g2zero := by
  rw [pointAdd_of_nonzero hP hQ, if_pos hX, if_neg hY]

theorem pointAdd_of_chord (hX : crossX P Q ≠ crossX Q P) : pointAdd P Q = chordSum P Q := by
  rw [pointAdd_of_nonzero hP hQ, if_neg hX]

end Branches

/-! ## The chord law (R231) -/

theorem crossX_canon (P Q : G2) : Canon2 (crossX P Q) := f2mul_canon _ _

theorem crossY_canon (P Q : G2) : Canon2 (crossY P Q) := f2mul_canon _ _

theorem chordH_canon (P Q : G2) : Canon2 (chordH P Q) := f2sub_canon _ _

theorem chordSum_canon (P Q : G2) : CanonG2 (chordSum P Q) := ⟨f2sub_canon _ _, f2sub_canon _ _, f2mul_canon _ _⟩

theorem f2val_crossX (P : G2) {Q : G2} (hQ : Canon2 Q.Z) : f2val (crossX P Q) = f2val P.X * f2val Q.Z ^ 2 := by
  rw [crossX, f2val_f2mul, f2val_f2sqr hQ, pow_two]

theorem f2val_crossY (P : G2) {Q : G2} (hQ : Canon2 Q.Z) : f2val (crossY P Q) = f2val P.Y * f2val Q.Z ^ 3 := by
  rw [crossY, f2val_f2mul, f2val_f2mul, f2val_f2sqr hQ, pow_three]

theorem f2val_chordH (P Q : G2) : f2val (chordH P Q) = f2val (crossX Q P) - f2val (crossX P Q) :=
  f2val_f2sub _ (crossX_canon P Q)

theorem f2val_chordR (P Q : G2) : f2val (chordR P Q) = f2val (crossY Q P) - f2val (crossY P Q) :=
  f2val_f2sub _ (crossY_canon P Q)

theorem f2val_chordSum_X (P Q : G2) :
    f2val (chordSum P Q).X =
      4 * f2val (chordR P Q) ^ 2 - 4 * f2val (chordH P Q) ^ 3 - 8 * (f2val (crossX P Q) * f2val (chordH P Q) ^ 2) := by
  simp only [chordSum, f2val_f2sub, f2val_f2mul, f2val_f2sqr, f2val_f2dbl, f2mul_canon, f2dbl_canon]
  ring

theorem f2val_chordSum_Y (P Q : G2) :
    f2val (chordSum P Q).Y =
      2 * f2val (chordR P Q) * (4 * (f2val (crossX P Q) * f2val (chordH P Q) ^ 2) - f2val (chordSum P Q).X) -
        8 * (f2val (crossY P Q) * f2val (chordH P Q) ^ 3) := by
  simp only [chordSum, f2val_f2sub, f2val_f2mul, f2val_f2sqr, f2val_f2dbl, f2mul_canon, f2dbl_canon, f2sub_canon]
  ring

theorem f2val_chordSum_Z {P Q : G2} (hP : Canon2 P.Z) (hQ : Canon2 Q.Z) :
    f2val (chordSum P Q).Z = 2 * (f2val P.Z * f2val Q.Z) * f2val (chordH P Q) := by
  simp only [chordSum, f2val_f2sub, f2val_f2mul, f2val_f2sqr, f2val_f2add, f2sqr_canon, f2add_canon, hP, hQ]
  ring

/-! The same in words, with the multiples and powers of R231's formulas. -/

theorem chordSum_X (P Q : G2) :
    (chordSum P Q).X =
      f2sub (f2sub (f2times 4 (f2pow (chordR P Q) 2)) (f2times 4 (f2pow (chordH P Q) 3)))
        (f2times 8 (f2mul (crossX P Q) (f2pow (chordH P Q) 2))) :=
  eq_of_f2val_eq (f2sub_canon _ _) (f2sub_canon _ _) ((f2val_chordSum_X P Q).trans (by simp [f2times_canon]))

theorem chordSum_Y (P Q : G2) :
    (chordSum P Q).Y =
      f2sub (f2mul (f2times 2 (chordR P Q))
          (f2sub (f2times 4 (f2mul (crossX P Q) (f2pow (chordH P Q) 2))) (chordSum P Q).X))
        (f2times 8 (f2mul (crossY P Q) (f2pow (chordH P Q) 3))) :=
  eq_of_f2val_eq (f2sub_canon _ _) (f2sub_canon _ _)
    ((f2val_chordSum_Y P Q).trans (by simp [f2times_canon, (chordSum_canon P Q).1]))

theorem chordSum_Z {P Q : G2} (hP : Canon2 P.Z) (hQ : Canon2 Q.Z) :
    (chordSum P Q).Z = f2mul (f2times 2 (f2mul P.Z Q.Z)) (chordH P Q) :=
  eq_of_f2val_eq (f2mul_canon _ _) (f2mul_canon _ _) ((f2val_chordSum_Z hP hQ).trans (by simp))

/-! ## The mixed sum (R232) -/

/-- An affine operand as a point with Z = 1 (R21). -/
def affinePoint (A : Aff) : G2 := ⟨A.x, A.y, f2one⟩

/-- The last branch of R232. -/
def mixedSum (P : G2) (A : Aff) : G2 :=
  let H := f2sub (crossX (affinePoint A) P) P.X
  let I := f2dbl (f2dbl (f2sqr H))
  let J := f2mul H I
  let r := f2dbl (f2sub (crossY (affinePoint A) P) P.Y)
  let V := f2mul P.X I
  let X3 := f2sub (f2sub (f2sqr r) J) (f2dbl V)
  ⟨X3, f2sub (f2mul r (f2sub V X3)) (f2dbl (f2mul P.Y J)),
   f2sub (f2sub (f2sqr (f2add P.Z H)) (f2sqr P.Z)) (f2sqr H)⟩

theorem pointAddMixed_eq (P : G2) (A : Aff) :
    pointAddMixed P A =
      if iszero P then affinePoint A
      else if P.X = crossX (affinePoint A) P then
        if P.Y = crossY (affinePoint A) P then pointDbl P else g2zero
      else mixedSum P A := rfl

theorem f2one_ne_f2zero : f2one ≠ f2zero := by decide

theorem f2sqr_f2one : f2sqr f2one = f2one :=
  (f2sqr_eq_f2mul f2one_canon).trans (f2mul_f2one f2one_canon)

section Mixed

variable {P : G2} (A : Aff) (hP : CanonG2 P)
include hP

theorem crossX_affinePoint : crossX P (affinePoint A) = P.X := by
  rw [crossX, affinePoint, f2sqr_f2one, f2mul_f2one hP.1]

theorem crossY_affinePoint : crossY P (affinePoint A) = P.Y := by
  rw [crossY, affinePoint, f2sqr_f2one, f2mul_f2one f2one_canon, f2mul_f2one hP.2.1]

/-- Both are the chord law: 4·H² is (2·H)², and (Z1 + H)² − Z1² − H² is 2·Z1·H. -/
theorem mixedSum_eq_chordSum : mixedSum P A = chordSum P (affinePoint A) := by
  have hZ := hP.2.2
  have hcrossX := crossX_affinePoint A hP
  have hcrossY := crossY_affinePoint A hP
  have hchordH : f2sub (crossX (affinePoint A) P) P.X = chordH P (affinePoint A) := by rw [chordH, hcrossX]
  have hchordR : f2sub (crossY (affinePoint A) P) P.Y = chordR P (affinePoint A) := by rw [chordR, hcrossY]
  refine g2_eq_of_f2val_eq ⟨f2sub_canon _ _, f2sub_canon _ _, f2sub_canon _ _⟩ (chordSum_canon _ _) ?X ?Y ?Z
  case X =>
    rw [f2val_chordSum_X, hcrossX, mixedSum, hchordH, hchordR]
    simp only [f2val_f2sub, f2val_f2mul, f2val_f2sqr, f2val_f2dbl, f2mul_canon, f2dbl_canon, chordH_canon]
    ring
  case Y =>
    rw [f2val_chordSum_Y, f2val_chordSum_X, hcrossX, hcrossY, mixedSum, hchordH, hchordR]
    simp only [f2val_f2sub, f2val_f2mul, f2val_f2sqr, f2val_f2dbl, f2mul_canon, f2dbl_canon, f2sub_canon,
      chordH_canon]
    ring
  case Z =>
    rw [f2val_chordSum_Z hZ f2one_canon, mixedSum, hchordH]
    simp only [affinePoint, f2val_f2one, f2val_f2sub, f2val_f2sqr, f2val_f2add, f2sqr_canon, f2add_canon,
      chordH_canon, hZ]
    ring

theorem pointAddMixed_eq_pointAdd : pointAddMixed P A = pointAdd P (affinePoint A) := by
  rw [pointAddMixed_eq, pointAdd_eq, if_neg (mt (iszero_iff (affinePoint A)).1 f2one_ne_f2zero),
    crossX_affinePoint A hP, crossY_affinePoint A hP, mixedSum_eq_chordSum A hP]

end Mixed

/-! ## The tangent law (R233) -/

/-- The second branch of R233. -/
def tangentPoint (P : G2) : G2 :=
  let A := f2sqr P.X
  let B := f2sqr P.Y
  let C := f2sqr B
  let D := f2dbl (f2sub (f2sub (f2sqr (f2add P.X B)) A) C)
  let E := f2add (f2dbl A) A
  let X3 := f2sub (f2sqr E) (f2dbl D)
  ⟨X3, f2sub (f2mul E (f2sub D X3)) (f2dbl (f2dbl (f2dbl C))), f2dbl (f2mul P.Y P.Z)⟩

theorem pointDbl_eq (P : G2) : pointDbl P = if iszero P then P else tangentPoint P := rfl

theorem pointDbl_of_zero {P : G2} (hP : P.Z = f2zero) : pointDbl P = P :=
  (pointDbl_eq P).trans (if_pos ((iszero_iff P).2 hP))

theorem pointDbl_of_nonzero {P : G2} (hP : P.Z ≠ f2zero) : pointDbl P = tangentPoint P :=
  (pointDbl_eq P).trans (if_neg (mt (iszero_iff P).1 hP))

theorem tangentPoint_canon (P : G2) : CanonG2 (tangentPoint P) := ⟨f2sub_canon _ _, f2sub_canon _ _, f2dbl_canon _⟩

theorem f2val_tangentPoint_Z (P : G2) : f2val (tangentPoint P).Z = 2 * f2val P.Y * f2val P.Z := by
  simp only [tangentPoint, f2val_f2dbl, f2val_f2mul, mul_assoc]

section Tangent

variable {P : G2} (hX : Canon2 P.X) (hY : Canon2 P.Y)
include hX hY

theorem f2val_tangentPoint_X :
    f2val (tangentPoint P).X = 9 * f2val P.X ^ 4 - 8 * (f2val P.X * f2val P.Y ^ 2) := by
  simp only [tangentPoint, f2val_f2sub, f2val_f2sqr, f2val_f2add, f2val_f2dbl, f2sqr_canon, f2add_canon, f2dbl_canon,
    hX, hY]
  ring

theorem f2val_tangentPoint_Y :
    f2val (tangentPoint P).Y =
      3 * f2val P.X ^ 2 * (4 * (f2val P.X * f2val P.Y ^ 2) - f2val (tangentPoint P).X) - 8 * f2val P.Y ^ 4 := by
  simp only [tangentPoint, f2val_f2sub, f2val_f2mul, f2val_f2sqr, f2val_f2add, f2val_f2dbl, f2sqr_canon, f2add_canon,
    f2sub_canon, f2dbl_canon, hX, hY]
  ring

theorem tangentPoint_X :
    (tangentPoint P).X = f2sub (f2times 9 (f2pow P.X 4)) (f2times 8 (f2mul P.X (f2pow P.Y 2))) :=
  eq_of_f2val_eq (f2sub_canon _ _) (f2sub_canon _ _)
    ((f2val_tangentPoint_X hX hY).trans (by simp [f2times_canon]))

theorem tangentPoint_Y :
    (tangentPoint P).Y =
      f2sub (f2mul (f2times 3 (f2pow P.X 2)) (f2sub (f2times 4 (f2mul P.X (f2pow P.Y 2))) (tangentPoint P).X))
        (f2times 8 (f2pow P.Y 4)) :=
  eq_of_f2val_eq (f2sub_canon _ _) (f2sub_canon _ _)
    ((f2val_tangentPoint_Y hX hY).trans (by simp [f2times_canon, (tangentPoint_canon P).1]))

end Tangent

theorem tangentPoint_Z (P : G2) : (tangentPoint P).Z = f2mul (f2times 2 P.Y) P.Z :=
  eq_of_f2val_eq (f2dbl_canon _) (f2mul_canon _ _) ((f2val_tangentPoint_Z P).trans (by simp))

/-- Z3 = 2·Y·Z is 0 with Y (R233). -/
theorem pointDbl_Z_of_Y_zero {P : G2} (hY : P.Y = f2zero) : (pointDbl P).Z = f2zero := by
  by_cases hZ : P.Z = f2zero
  · rw [pointDbl_of_zero hZ, hZ]
  · rw [pointDbl_of_nonzero hZ]
    refine eq_of_f2val_eq (f2dbl_canon _) f2zero_canon ?_
    rw [f2val_tangentPoint_Z, hY, f2val_f2zero, mul_zero, zero_mul]

/-! ## The chord and the tangent meet the curve in a third point -/

section CurveIdentities

variable {K : Type} [CommRing K] {b : K}

/-- A curve point over a common denominator: S² = U³ + b·(z·w)⁶ for U and S of R231. -/
theorem curve_scale {x y z : K} (w : K) (h : y ^ 2 = x ^ 3 + b * z ^ 6) :
    (y * w ^ 3) ^ 2 = (x * w ^ 2) ^ 3 + b * (z * w) ^ 6 := by
  linear_combination w ^ 6 * h

theorem chord_on_curve {u1 u2 s1 s2 z h r x : K} (h1 : s1 ^ 2 = u1 ^ 3 + b * z ^ 6) (h2 : s2 ^ 2 = u2 ^ 3 + b * z ^ 6)
    (hu : u2 = u1 + h) (hs : s2 = s1 + r) (hx : x = 4 * r ^ 2 - 4 * h ^ 3 - 8 * (u1 * h ^ 2)) :
    (2 * r * (4 * (u1 * h ^ 2) - x) - 8 * (s1 * h ^ 3)) ^ 2 = x ^ 3 + b * (2 * z * h) ^ 6 := by
  subst hu hs hx
  linear_combination 64 * h ^ 6 * h1 - 64 * h ^ 3 * (r ^ 2 - h ^ 3 - 3 * (u1 * h ^ 2)) * (h1 - h2)

theorem tangent_on_curve {x y z x3 : K} (h : y ^ 2 = x ^ 3 + b * z ^ 6) (hx : x3 = 9 * x ^ 4 - 8 * (x * y ^ 2)) :
    (3 * x ^ 2 * (4 * (x * y ^ 2) - x3) - 8 * y ^ 4) ^ 2 = x3 ^ 3 + b * (2 * y * z) ^ 6 := by
  subst hx
  linear_combination 64 * y ^ 6 * h

end CurveIdentities

/-! ## The curve (R266) -/

theorem onCurve_of_zero {P : G2} (h : P.Z = f2zero) : OnCurve P := .inl ((iszero_iff P).2 h)

/-- The equation Y² = X³ + b2·Z⁶ on the values of the coordinates. -/
theorem onCurve_iff {P : G2} (hP : CanonG2 P) :
    OnCurve P ↔ P.Z = f2zero ∨ f2val P.Y ^ 2 = f2val P.X ^ 3 + f2val b2 * f2val P.Z ^ 6 := by
  obtain ⟨hX, hY, hZ⟩ := hP
  refine or_congr (iszero_iff P) ⟨fun h => ?_, fun h => eq_of_f2val_eq (f2sqr_canon _) (f2add_canon _ _) ?_⟩
  · have hval := congrArg f2val h
    simp only [f2val_f2add, f2val_f2mul, f2val_f2sqr, hX, hY, hZ] at hval
    linear_combination hval
  · simp only [f2val_f2add, f2val_f2mul, f2val_f2sqr, hX, hY, hZ]
    linear_combination h

theorem curve_equation {P : G2} (hP : CanonG2 P) (hcurve : OnCurve P) (hne : P.Z ≠ f2zero) :
    f2val P.Y ^ 2 = f2val P.X ^ 3 + f2val b2 * f2val P.Z ^ 6 :=
  ((onCurve_iff hP).1 hcurve).resolve_left hne

theorem pointNeg_onCurve {P : G2} (hP : CanonG2 P) (hcurve : OnCurve P) : OnCurve (pointNeg P) := by
  refine (onCurve_iff (pointNeg_canon hP)).2 (((onCurve_iff hP).1 hcurve).imp_right fun h => ?_)
  rw [pointNeg, f2val_f2neg hP.2.1, neg_sq]
  exact h

theorem pointDbl_onCurve {P : G2} (hP : CanonG2 P) (hcurve : OnCurve P) : OnCurve (pointDbl P) := by
  by_cases hne : P.Z = f2zero
  · rwa [pointDbl_of_zero hne]
  · rw [pointDbl_of_nonzero hne]
    have hcurveEq := curve_equation hP hcurve hne
    obtain ⟨hX, hY, -⟩ := hP
    refine (onCurve_iff (tangentPoint_canon P)).2 (.inr ?_)
    rw [f2val_tangentPoint_Y hX hY, f2val_tangentPoint_Z]
    exact tangent_on_curve hcurveEq (f2val_tangentPoint_X hX hY)

theorem chordSum_onCurve {P Q : G2} (hP : CanonG2 P) (hQ : CanonG2 Q) (hcP : OnCurve P) (hcQ : OnCurve Q)
    (hPne : P.Z ≠ f2zero) (hQne : Q.Z ≠ f2zero) : OnCurve (chordSum P Q) := by
  have hPZ := hP.2.2
  have hQZ := hQ.2.2
  have h1 := curve_scale (f2val Q.Z) (curve_equation hP hcP hPne)
  have h2 := curve_scale (f2val P.Z) (curve_equation hQ hcQ hQne)
  rw [← f2val_crossX P hQZ, ← f2val_crossY P hQZ] at h1
  rw [← f2val_crossX Q hPZ, ← f2val_crossY Q hPZ, mul_comm (f2val Q.Z)] at h2
  refine (onCurve_iff (chordSum_canon P Q)).2 (.inr ?_)
  rw [f2val_chordSum_Y, f2val_chordSum_Z hPZ hQZ]
  exact chord_on_curve h1 h2 (eq_add_of_sub_eq' (f2val_chordH P Q).symm) (eq_add_of_sub_eq' (f2val_chordR P Q).symm)
    (f2val_chordSum_X P Q)

theorem pointAdd_onCurve {P Q : G2} (hP : CanonG2 P) (hQ : CanonG2 Q) (hcP : OnCurve P) (hcQ : OnCurve Q) :
    OnCurve (pointAdd P Q) := by
  by_cases hPne : P.Z = f2zero
  · rwa [pointAdd_of_left_zero Q hPne]
  by_cases hQne : Q.Z = f2zero
  · rwa [pointAdd_of_right_zero hPne hQne]
  rw [pointAdd_of_nonzero hPne hQne]
  split_ifs
  · exact pointDbl_onCurve hP hcP
  · exact onCurve_of_zero rfl
  · exact chordSum_onCurve hP hQ hcP hcQ hPne hQne

end Sys2Proof.Proofs
end

section
/-! SUPPORT. The G2 commands (spec/45_g2.md R231 to R237): the words that each of them writes, and the statements. -/

namespace Sys2Proof.Proofs

open Sys2Proof Sys2Proof.Machine Sys2Proof.Laws

theorem fp2_words_of_rdFp2 (s : State) (b : Nat) : (s.rdFp2 b).words = [s.readW b, s.readW (b + 1)] := by
  simp only [Fp2.words, State.rdFp2, State.rdFp, fw, BitVec.ofNat_toNat, BitVec.setWidth_eq]

theorem pointNeg_words {s : State} {x : WIdx} (hx : CanonW s x 6) :
    (pointNeg (s.rdG2 x.toNat)).words =
      [s.readW x.toNat, s.readW (x.toNat + 1), fw (modP (-(s.readW (x.toNat + 2)).toNat)),
       fw (modP (-(s.readW (x.toNat + 3)).toNat)), s.readW (x.toNat + 4), s.readW (x.toNat + 5)] := by
  simp only [pointNeg, State.rdG2, G2.words, fp2_words_of_rdFp2, f2neg_words (canon_rdFp2_at (k := 2) hx (by omega))]
  rfl

/-- Settles O35: the datapath's chord branch has the values of the chord law. -/
theorem g2addDispatch : Obligations.G2addDispatch := by
  refine ⟨fun s rd rs1 rs2 => commandRule_twoOperands rfl rfl rfl rfl rfl rfl fun _ _ => rfl, fun P Q hP hQ => ?_⟩
  intro U1 U2 S1 S2
  refine ⟨pointAdd_of_left_zero Q, pointAdd_of_right_zero, pointAdd_of_equal, pointAdd_of_inverse,
    fun hPne hQne hU => ?chord, ?double⟩
  case chord =>
    rw [pointAdd_of_chord hPne hQne hU]
    exact ⟨chordSum_X P Q, chordSum_Y P Q, chordSum_Z hP.2.2 hQ.2.2⟩
  case double =>
    by_cases hPne : P.Z = f2zero
    · rw [pointAdd_of_left_zero P hPne, pointDbl_of_zero hPne]
    · exact pointAdd_of_equal hPne hPne rfl rfl

/-- Settles O36: the two datapaths are the same branches and the same chord law. -/
theorem mixedAdditionEqualsFullAddition : Obligations.MixedAdditionEqualsFullAddition := fun s _ _ rs2 =>
  commandRule_twoOperands rfl rfl rfl rfl rfl rfl fun ha _ =>
    congrArg G2.words (pointAddMixed_eq_pointAdd (s.rdAff rs2.toNat) (canon_rdG2 ha))

/-- Settles O37: the datapath's doubling has the values of the tangent law. -/
theorem g2DoubleNegateSubtractRules : Obligations.G2DoubleNegateSubtractRules := by
  refine ⟨fun s rd rs1 rs2 => ⟨?dbl, ?neg, ?sub⟩,
    fun P hP => ⟨pointDbl_of_zero, pointDbl_Z_of_Y_zero, fun hne => ?tangent⟩, rs2Reserved_of_twoW rfl,
    rs2Reserved_of_twoW rfl⟩
  case dbl => exact commandRule_oneOperand rfl rfl rfl rfl rfl rfl fun _ => rfl
  case neg => exact commandRule_oneOperand rfl rfl rfl rfl rfl rfl pointNeg_words
  case sub => exact commandRule_twoOperands rfl rfl rfl rfl rfl rfl fun _ _ => rfl
  case tangent =>
    obtain ⟨hX, hY, -⟩ := hP
    rw [pointDbl_of_nonzero hne]
    exact ⟨tangentPoint_X hX hY, tangentPoint_Y hX hY, tangentPoint_Z P⟩

/-- Settles O38, by the identities of the chord and the tangent. -/
theorem pointCommandsStayOnTheCurve : Obligations.PointCommandsStayOnTheCurve := by
  intro P Q hP hQ hcP hcQ
  refine ⟨pointAdd_onCurve hP hQ hcP hcQ, pointDbl_onCurve hP hcP, pointNeg_onCurve hP hcP,
    pointAdd_onCurve hP (pointNeg_canon hQ) hcP (pointNeg_onCurve hQ hcQ), fun hone => ?mixed⟩
  case mixed =>
    have hpoint : affinePoint ⟨Q.X, Q.Y⟩ = Q := by rw [affinePoint, ← hone]
    rw [pointAddMixed_eq_pointAdd _ hP, hpoint]
    exact pointAdd_onCurve hP hQ hcP hcQ

end Sys2Proof.Proofs
end

section
/-! SUPPORT. The recoding of a scalar (spec/46_scalar_mult.md R262): what one digit is, what is left of the scalar above
it, and from that the digit list as a whole. -/

namespace Sys2Proof.Proofs

open Sys2Proof Sys2Proof.Machine Sys2Proof.Laws

/-! ## One digit and the scalar above it -/

/-- The scalar whose recoding is the digits above the lowest one. -/
def nafRest (e : Nat) : Nat := ((e : Int) - nafDigit e).toNat / 2

theorem nafDigit_of_even {e : Nat} (h : e % 2 = 0) : nafDigit e = 0 := if_neg (by omega)

/-- The digit of an odd scalar is the residue modulo 64 that is nearest to 0. -/
theorem nafDigit_of_odd {e : Nat} (h : e % 2 = 1) :
    (e % 64 < 32 ∧ nafDigit e = (e % 64 : Nat)) ∨ (32 < e % 64 ∧ nafDigit e = (e % 64 : Nat) - 64) := by
  rw [nafDigit, if_pos h]
  dsimp only
  split_ifs
  · exact .inr ⟨by omega, rfl⟩
  · exact .inl ⟨by omega, rfl⟩

/-- The legal digits of R262. -/
def NafDigitLegal (d : Int) : Prop := d = 0 ∨ (d % 2 = 1 ∧ -31 ≤ d ∧ d ≤ 31)

theorem nafDigit_legal (e : Nat) : NafDigitLegal (nafDigit e) := by
  unfold NafDigitLegal
  rcases Nat.mod_two_eq_zero_or_one e with heven | hodd
  · exact .inl (nafDigit_of_even heven)
  · have := nafDigit_of_odd hodd
    omega

theorem nafDigit_add_two_mul_nafRest (e : Nat) : nafDigit e + 2 * (nafRest e : Int) = e := by
  rw [nafRest]
  rcases Nat.mod_two_eq_zero_or_one e with heven | hodd
  · rw [nafDigit_of_even heven]
    omega
  · have := nafDigit_of_odd hodd
    omega

theorem nafRest_of_even {e : Nat} (h : e % 2 = 0) : nafRest e = e / 2 := by
  have := nafDigit_add_two_mul_nafRest e
  rw [nafDigit_of_even h] at this
  omega

/-- A digit other than 0 leaves a multiple of 64, half of which is the rest. -/
theorem dvd_nafRest_of_odd {e : Nat} (h : e % 2 = 1) : 2 ^ 5 ∣ nafRest e := by
  have hsum := nafDigit_add_two_mul_nafRest e
  have hdigit := nafDigit_of_odd h
  exact Nat.dvd_of_mod_eq_zero (by omega)

/-- A power of two bounds the rest as it bounds the scalar: rounding up stops at the next multiple of 64. -/
theorem nafRest_le {e k : Nat} (h : e ≤ 2 ^ (k + 1)) : nafRest e ≤ 2 ^ k := by
  have hsum := nafDigit_add_two_mul_nafRest e
  rw [pow_succ] at h
  rcases Nat.mod_two_eq_zero_or_one e with heven | hodd
  · rw [nafDigit_of_even heven] at hsum
    omega
  · rcases nafDigit_of_odd hodd with ⟨-, hdigit⟩ | ⟨hlarge, hdigit⟩
    · omega
    · have hk : 4 < k := (Nat.pow_lt_pow_iff_right (a := 2) one_lt_two).1 (by omega)
      have hmultiple : 2 ^ 5 ∣ 2 ^ k := pow_dvd_pow 2 hk
      omega

/-! ## The digit list -/

theorem nafLoop_zero (fuel : Nat) : nafLoop fuel 0 = [] := by cases fuel <;> rfl

theorem nafLoop_succ (fuel : Nat) {e : Nat} (h : e ≠ 0) :
    nafLoop (fuel + 1) e = nafDigit e :: nafLoop fuel (nafRest e) := if_neg h

theorem nafLoop_length_le (fuel e : Nat) : (nafLoop fuel e).length ≤ fuel := by
  induction fuel generalizing e with
  | zero => exact le_rfl
  | succ fuel ih =>
    by_cases he : e = 0
    · rw [he, nafLoop_zero]
      exact Nat.zero_le _
    · rw [nafLoop_succ fuel he]
      exact Nat.succ_le_succ (ih _)

theorem nafLoop_legal (fuel e : Nat) : ∀ d ∈ nafLoop fuel e, NafDigitLegal d := by
  induction fuel generalizing e with
  | zero => exact List.forall_mem_nil _
  | succ fuel ih =>
    by_cases he : e = 0
    · rw [he, nafLoop_zero]
      exact List.forall_mem_nil _
    · rw [nafLoop_succ fuel he]
      exact List.forall_mem_cons.2 ⟨nafDigit_legal e, ih _⟩

/-- The digits of a multiple of 2^m begin with m zeros. -/
theorem le_of_nafLoop_getD_ne_zero {m fuel e j : Nat} (hdvd : 2 ^ m ∣ e) (hj : (nafLoop fuel e).getD j 0 ≠ 0) :
    m ≤ j := by
  induction m generalizing fuel e j with
  | zero => exact Nat.zero_le j
  | succ m ih =>
    by_cases he : e = 0
    · exact absurd (by rw [he, nafLoop_zero, List.getD_nil]) hj
    obtain ⟨c, rfl⟩ := hdvd
    have heven : 2 ^ (m + 1) * c % 2 = 0 := by rw [pow_succ, mul_right_comm]; exact Nat.mul_mod_left _ _
    have hrest : nafRest (2 ^ (m + 1) * c) = 2 ^ m * c := by
      rw [nafRest_of_even heven, pow_succ, mul_right_comm]
      exact Nat.mul_div_cancel _ two_pos
    cases fuel with
    | zero => exact absurd rfl hj
    | succ fuel =>
      rw [nafLoop_succ fuel he, nafDigit_of_even heven, hrest] at hj
      cases j with
      | zero => exact absurd rfl hj
      | succ j => exact Nat.succ_le_succ (ih (Dvd.intro c rfl) hj)

theorem nafLoop_spaced (fuel e : Nat) {i j : Nat} (hij : i < j) (hi : (nafLoop fuel e).getD i 0 ≠ 0)
    (hj : (nafLoop fuel e).getD j 0 ≠ 0) : i + 6 ≤ j := by
  induction fuel generalizing e i j with
  | zero => exact absurd rfl hi
  | succ fuel ih =>
    by_cases he : e = 0
    · exact absurd (by rw [he, nafLoop_zero, List.getD_nil]) hi
    rw [nafLoop_succ fuel he] at hi hj
    obtain ⟨j, rfl⟩ := Nat.exists_eq_add_one_of_ne_zero (Nat.ne_zero_of_lt hij)
    rw [List.getD_cons_succ] at hj
    cases i with
    | zero =>
      have hodd : e % 2 = 1 := (Nat.mod_two_eq_zero_or_one e).resolve_left fun heven => hi (nafDigit_of_even heven)
      have := le_of_nafLoop_getD_ne_zero (dvd_nafRest_of_odd hodd) hj
      omega
    | succ i =>
      have := ih (nafRest e) (Nat.lt_of_succ_lt_succ hij) hi hj
      omega

/-- Enough fuel leaves no part of the scalar over. -/
theorem nafLoop_sum {k e : Nat} (h : e ≤ 2 ^ k) :
    (nafLoop (k + 1) e).foldr (fun d acc => d + 2 * acc) 0 = (e : Int) := by
  induction k generalizing e with
  | zero =>
    have hsmall : e = 0 ∨ e = 1 := by omega
    rcases hsmall with rfl | rfl <;> rfl
  | succ k ih =>
    by_cases he : e = 0
    · rw [he, nafLoop_zero]
      rfl
    · rw [nafLoop_succ _ he, List.foldr_cons, ih (nafRest_le h)]
      exact nafDigit_add_two_mul_nafRest e

/-- Where the list ends the rest is 0, so that the last digit is the whole of what was left. -/
theorem nafLoop_getLast_ne_zero {k e : Nat} (h : e ≤ 2 ^ k) : (nafLoop (k + 1) e).getLast? ≠ some 0 := by
  induction k generalizing e with
  | zero =>
    have hsmall : e = 0 ∨ e = 1 := by omega
    rcases hsmall with rfl | rfl <;> decide
  | succ k ih =>
    by_cases he : e = 0
    · rw [he, nafLoop_zero]
      exact Option.some_ne_none 0 ∘ Eq.symm
    rw [nafLoop_succ _ he]
    by_cases hrest : nafRest e = 0
    · have hdigit := nafDigit_add_two_mul_nafRest e
      rw [hrest] at hdigit
      rw [hrest, nafLoop_zero, List.getLast?_singleton, ne_eq, Option.some_inj]
      omega
    · have hlast := ih (nafRest_le h)
      rw [nafLoop_succ _ hrest] at hlast ⊢
      rwa [List.getLast?_cons_cons]

/-! ## The recoding -/

theorem naf_legal (e : Nat) : ∀ d ∈ naf e, NafDigitLegal d := nafLoop_legal 1025 e

theorem naf_sum {e : Nat} (h : e < 2 ^ 1024) : (naf e).foldr (fun d acc => d + 2 * acc) 0 = (e : Int) :=
  nafLoop_sum h.le

/-- Settles O41, by what a digit leaves of the scalar. -/
theorem wnafRecodingRepresentsTheScalar : Obligations.WnafRecodingRepresentsTheScalar := by
  refine ⟨by decide, by decide, by decide, by decide, by decide +kernel, fun e he => ⟨naf_legal e,
    fun i j => nafLoop_spaced 1025 e, nafLoop_getLast_ne_zero he.le, nafLoop_length_le 1025 e, naf_sum he⟩⟩

end Sys2Proof.Proofs
end

section
/-! SUPPORT. The two scalar multipliers as loops (spec/46_scalar_mult.md R261, R263, R264): the binary one over the bits of
the scalar, the windowed one over its recoding, without the table and without the mark of the first digit. -/

namespace Sys2Proof.Proofs

open Sys2Proof Sys2Proof.Machine Sys2Proof.Laws

/-! ## The binary loop (R261) -/

/-- One round of R261 for the bit b: the sum, then the running double. -/
def binaryStep (st : G2 × G2) (b : Bool) : G2 × G2 := (if b then pointAdd st.1 st.2 else st.1, pointDbl st.2)

/-- The loop from bit i + 1 on is the loop from bit i on of half the scalar. -/
theorem smulLoop_half (e k i : Nat) (q n : G2) : smulLoop e k (i + 1) q n = smulLoop (e / 2) k i q n := by
  induction k generalizing i q n with
  | zero => rfl
  | succ k ih => rw [smulLoop, smulLoop, Nat.testBit_succ, ih]

theorem smulLoop_succ (e k : Nat) (q n : G2) :
    smulLoop e (k + 1) 0 q n = smulLoop (e / 2) k 0 (if e.testBit 0 then pointAdd q n else q) (pointDbl n) :=
  smulLoop_half e k 0 _ _

theorem smulLoop_zero_scalar (k : Nat) (q n : G2) : smulLoop 0 k 0 q n = q := by
  induction k generalizing n with
  | zero => rfl
  | succ k ih => exact (smulLoop_succ 0 k q n).trans (ih _)

theorem bits_of_ne_zero {e : Nat} (h : e ≠ 0) : Nat.bits e = e.testBit 0 :: Nat.bits (e / 2) := by
  rcases Nat.even_or_odd' e with ⟨c, rfl | rfl⟩
  · rw [Nat.bit0_bits c (by omega), Nat.mul_div_cancel_left c two_pos]
    simp
  · rw [Nat.bit1_bits, Nat.mul_add_div two_pos]
    simp

/-- The rounds past the highest bit leave the sum as it is. -/
theorem smulLoop_eq_foldl {k e : Nat} (h : e < 2 ^ k) (q n : G2) :
    smulLoop e k 0 q n = ((Nat.bits e).foldl binaryStep (q, n)).1 := by
  induction k generalizing e q n with
  | zero =>
    obtain rfl : e = 0 := by omega
    rw [Nat.zero_bits]
    rfl
  | succ k ih =>
    by_cases he : e = 0
    · rw [he, smulLoop_zero_scalar, Nat.zero_bits]
      rfl
    · rw [smulLoop_succ, ih (by omega), bits_of_ne_zero he]
      rfl

theorem smul_eq_foldl (P : G2) {e : Nat} (h : e < 2 ^ 1024) :
    smul P e = ((Nat.bits e).foldl binaryStep (g2zero, P)).1 := smulLoop_eq_foldl h g2zero P

theorem pointAdd_g2zero_left (P : G2) : pointAdd g2zero P = P := pointAdd_of_left_zero P rfl

theorem smul_zero (P : G2) : smul P 0 = g2zero := smulLoop_zero_scalar 1024 g2zero P

theorem smul_one (P : G2) : smul P 1 = P := by
  rw [smul, smulLoop_succ, smulLoop_zero_scalar]
  exact pointAdd_g2zero_left P

theorem smulLoop_of_zero (e k i : Nat) {q n : G2} (hq : q.Z = f2zero) (hn : n.Z = f2zero) :
    (smulLoop e k i q n).Z = f2zero := by
  induction k generalizing i q n with
  | zero => exact hq
  | succ k ih =>
    rw [smulLoop, pointDbl_of_zero hn]
    refine ih (i + 1) ?_ hn
    split_ifs
    · rwa [pointAdd_of_left_zero n hq]
    · exact hq

/-- Settles O40: halving the scalar moves the loop on by a bit. -/
theorem g2smulIsDoubleAndAdd : Obligations.G2smulIsDoubleAndAdd := by
  refine ⟨fun s rd rs1 k => ?rule, fun P => ⟨smul_zero P, smul_one P, fun e => smulLoop_of_zero e 1024 0 rfl⟩,
    fun _ _ _ => decode_withScalar_reserved rfl⟩
  case rule =>
    exact commandRule_oneOperand rfl rfl rfl rfl rfl rfl fun _ =>
      congrArg G2.words (smul_eq_foldl _ (s.readS k).isLt)

/-! ## The table (R263) -/

/-- (2j + 1)·P by repeated addition of 2P (R263). -/
def oddMultiple (P : G2) (j : Nat) : G2 := (fun acc => pointAdd acc (pointDbl P))^[j] P

/-- d·P for an odd d (R263). -/
def digitMultiple (P : G2) (d : Int) : G2 :=
  if 0 < d then oddMultiple P ((d.natAbs - 1) / 2) else pointNeg (oddMultiple P ((d.natAbs - 1) / 2))

theorem multiplesFrom_eq_map (D : G2) (n : Nat) (acc : G2) :
    multiplesFrom D n acc = (List.range n).map fun j => (fun a => pointAdd a D)^[j] acc := by
  induction n generalizing acc with
  | zero => rfl
  | succ n ih =>
    rw [multiplesFrom, ih, List.range_succ_eq_map, List.map_cons, List.map_map]
    rfl

theorem oddMultiples_eq_map (P : G2) : oddMultiples P = (List.range 16).map (oddMultiple P) :=
  multiplesFrom_eq_map (pointDbl P) 16 P

theorem oddMultiples_length (P : G2) : (oddMultiples P).length = 16 := by
  rw [oddMultiples_eq_map, List.length_map, List.length_range]

theorem oddMultiples_getElem? (P : G2) {j : Nat} (hj : j < 16) : (oddMultiples P)[j]? = some (oddMultiple P j) := by
  rw [oddMultiples_eq_map, List.getElem?_map, List.getElem?_range hj, Option.map_some]

theorem negatedMultiples_length (P : G2) : ((oddMultiples P).map pointNeg).reverse.length = 16 := by
  rw [List.length_reverse, List.length_map, oddMultiples_length]

/-- The upper half holds the odd multiples. -/
theorem wnafTable_upper (P : G2) {j : Nat} (hj : j < 16) : (wnafTable P)[16 + j]? = some (oddMultiple P j) := by
  rw [wnafTable, List.getElem?_append_right (by rw [negatedMultiples_length]; omega), negatedMultiples_length,
    Nat.add_sub_cancel_left, oddMultiples_getElem? P hj]

/-- The lower half holds their negations from the last to the first. -/
theorem wnafTable_lower (P : G2) {j : Nat} (hj : j < 16) :
    (wnafTable P)[15 - j]? = some (pointNeg (oddMultiple P j)) := by
  have hback : 16 - 1 - (15 - j) = j := by omega
  rw [wnafTable, List.getElem?_append_left (by rw [negatedMultiples_length]; omega),
    List.getElem?_reverse (by rw [List.length_map, oddMultiples_length]; omega), List.length_map, oddMultiples_length,
    hback, List.getElem?_map, oddMultiples_getElem? P hj, Option.map_some]

/-- The entry that a digit selects is the digit's multiple of P. -/
theorem wnafTable_tableIndex (P : G2) {d : Int} (hd : NafDigitLegal d) (hne : d ≠ 0) :
    (wnafTable P).getD (tableIndex d) g2zero = digitMultiple P d := by
  obtain ⟨hodd, hlow, hhigh⟩ := hd.resolve_left hne
  have hj : (d.natAbs - 1) / 2 < 16 := by omega
  rw [List.getD_eq_getElem?_getD, tableIndex, digitMultiple]
  by_cases hpos : 0 < d
  · have hindex : ((d - 1) / 2).toNat = (d.natAbs - 1) / 2 := by omega
    rw [if_pos hpos, if_pos hpos, hindex, wnafTable_upper P hj, Option.getD_some]
  · have hindex : ((-d - 1) / 2).toNat = (d.natAbs - 1) / 2 := by omega
    rw [if_neg hpos, if_neg hpos, hindex, wnafTable_lower P hj, Option.getD_some]

/-! ## The windowed loop (R264) -/

/-- One round of R264 for the digit d, the doublings before the first digit made as well. -/
def windowStep (P q : G2) (d : Int) : G2 :=
  if d = 0 then pointDbl q
  else if 0 < d then pointAdd (pointDbl q) (oddMultiple P ((d.natAbs - 1) / 2))
  else pointAdd (pointDbl q) (pointNeg (oddMultiple P ((d.natAbs - 1) / 2)))

theorem windowStep_eq (P q : G2) (d : Int) :
    windowStep P q d = if d = 0 then pointDbl q else pointAdd (pointDbl q) (digitMultiple P d) := by
  rw [windowStep, digitMultiple, apply_ite (pointAdd (pointDbl q))]

theorem pointDbl_g2zero : pointDbl g2zero = g2zero := pointDbl_of_zero rfl

/-- Before the first digit other than 0 the sum is G2ZERO, which doubles to itself. -/
theorem smulwStep_eq (T : List G2) {st : G2 × Bool} (hst : st.2 = false → st.1 = g2zero) (d : Int) :
    smulwStep T st d =
      if d = 0 then (pointDbl st.1, st.2) else (pointAdd (pointDbl st.1) (T.getD (tableIndex d) g2zero), true) := by
  have hdouble : (if st.2 then pointDbl st.1 else st.1) = pointDbl st.1 := by
    cases hfound : st.2 with
    | true => exact if_pos rfl
    | false => rw [hst hfound, pointDbl_g2zero, ite_self]
  rw [smulwStep, hdouble]

theorem smulwStep_eq_windowStep (P : G2) {st : G2 × Bool} (hst : st.2 = false → st.1 = g2zero) {d : Int}
    (hd : NafDigitLegal d) :
    (smulwStep (wnafTable P) st d).1 = windowStep P st.1 d ∧
      ((smulwStep (wnafTable P) st d).2 = false → (smulwStep (wnafTable P) st d).1 = g2zero) := by
  rw [smulwStep_eq _ hst, windowStep_eq]
  by_cases hzero : d = 0
  · rw [if_pos hzero, if_pos hzero]
    exact ⟨rfl, fun hfound => (congrArg pointDbl (hst hfound)).trans pointDbl_g2zero⟩
  · rw [if_neg hzero, if_neg hzero, wnafTable_tableIndex P hd hzero]
    exact ⟨rfl, fun hfound => absurd hfound Bool.noConfusion⟩

theorem foldl_smulwStep (P : G2) {ds : List Int} (hds : ∀ d ∈ ds, NafDigitLegal d) {st : G2 × Bool}
    (hst : st.2 = false → st.1 = g2zero) :
    (ds.foldl (smulwStep (wnafTable P)) st).1 = ds.foldl (windowStep P) st.1 := by
  induction ds generalizing st with
  | nil => rfl
  | cons d ds ih =>
    obtain ⟨hd, hds⟩ := List.forall_mem_cons.1 hds
    obtain ⟨hstep, hkept⟩ := smulwStep_eq_windowStep P hst hd
    rw [List.foldl_cons, List.foldl_cons, ih hds hkept, hstep]

theorem smulw_eq_foldl (P : G2) (e : Nat) : smulw P e = (naf e).reverse.foldl (windowStep P) g2zero :=
  foldl_smulwStep P (fun d hd => naf_legal e d (List.mem_reverse.1 hd)) fun _ => rfl

theorem smulw_zero (P : G2) : smulw P 0 = g2zero := rfl

theorem smulw_one (P : G2) : smulw P 1 = P := by
  rw [smulw_eq_foldl]
  change pointAdd (pointDbl g2zero) P = P
  rw [pointDbl_g2zero, pointAdd_g2zero_left]

/-- Settles O42: the table's entries are the digits' multiples, and a round before the first digit changes nothing. -/
theorem g2smulwIsTheWindowedLoop : Obligations.G2smulwIsTheWindowedLoop := by
  refine ⟨fun s rd rs1 k => ?rule, fun P => ⟨smulw_zero P, smulw_one P⟩, fun _ _ _ => decode_withScalar_reserved rfl⟩
  case rule =>
    exact commandRule_oneOperand rfl rfl rfl rfl rfl rfl fun _ => congrArg G2.words (smulw_eq_foldl _ _)

end Sys2Proof.Proofs
end

section
/-! SUPPORT. The group of the curve y² = x³ + b over any field (spec/45_g2.md R237): Mathlib's group of the affine points, and
what the chord and the tangent law of R231 and R233 do to Jacobian coordinates of them. -/

namespace Sys2Proof.Proofs

open WeierstrassCurve.Affine

/-- The curve y² = x³ + b. -/
def shortCurve {K : Type} [Zero K] (b : K) : WeierstrassCurve.Affine K := ⟨0, 0, 0, 0, b⟩

/-- (x, y, z) are Jacobian coordinates of the point: x/z² and y/z³ are its affine ones, and z = 0 at infinity (R230). -/
def JacobianOf {K : Type} [CommRing K] {b : K} (x y z : K) : (shortCurve b).Point → Prop
  | .zero => z = 0
  | .some u v _ => z ≠ 0 ∧ x = u * z ^ 2 ∧ y = v * z ^ 3

section CurvePoints

variable {K : Type} [CommRing K] {b : K}

theorem jacobianOf_zero_iff {x y z : K} : JacobianOf x y z (0 : (shortCurve b).Point) ↔ z = 0 := Iff.rfl

theorem jacobianOf_some_iff {x y z u v : K} {h : (shortCurve b).Nonsingular u v} :
    JacobianOf x y z (.some u v h) ↔ z ≠ 0 ∧ x = u * z ^ 2 ∧ y = v * z ^ 3 := Iff.rfl

theorem shortCurve_equation_iff {u v : K} : (shortCurve b).Equation u v ↔ v ^ 2 = u ^ 3 + b := by
  rw [equation_iff]
  simp [shortCurve]

theorem shortCurve_negY (u v : K) : (shortCurve b).negY u v = -v := by
  simp [negY, shortCurve]

theorem jacobianOf_neg {x y z : K} {A : (shortCurve b).Point} (h : JacobianOf x y z A) : JacobianOf x (-y) z (-A) := by
  rcases A with _ | ⟨u, v, hA⟩
  · exact h
  · obtain ⟨hz, hx, hy⟩ := h
    refine ⟨hz, hx, ?_⟩
    rw [shortCurve_negY, hy, neg_mul]

end CurvePoints

section CurveGroup

variable {K : Type} [Field K] {b : K}

/-- Where 6b is not 0 the curve has no singular point: 2v and 3u² are not both 0. -/
theorem shortCurve_nonsingular (h2 : (2 : K) ≠ 0) (h3 : (3 : K) ≠ 0) (hb : b ≠ 0) {u v : K}
    (h : v ^ 2 = u ^ 3 + b) : (shortCurve b).Nonsingular u v := by
  rw [nonsingular_iff', shortCurve_equation_iff]
  refine ⟨h, ?_⟩
  by_cases hv : v = 0
  · have hu : u ≠ 0 := by
      rintro rfl
      exact hb (by rw [hv] at h; linear_combination -h)
    left
    simp [shortCurve, h3, hu]
  · right
    simp [shortCurve, h2, hv]

variable [DecidableEq K]

/-- The third point of the line of slope ℓ, reflected. -/
theorem jacobianOf_add {x y z u1 v1 u2 v2 l : K} {h1 : (shortCurve b).Nonsingular u1 v1}
    {h2 : (shortCurve b).Nonsingular u2 v2} (hne : ¬(u1 = u2 ∧ v1 = (shortCurve b).negY u2 v2))
    (hl : (shortCurve b).slope u1 u2 v1 v2 = l) (hz : z ≠ 0) (hx : x = (l ^ 2 - u1 - u2) * z ^ 2)
    (hy : y = (l * (u1 - (l ^ 2 - u1 - u2)) - v1) * z ^ 3) :
    JacobianOf x y z (Point.some u1 v1 h1 + Point.some u2 v2 h2) := by
  have haddX : (shortCurve b).addX u1 u2 l = l ^ 2 - u1 - u2 := by simp [shortCurve]
  rw [Point.add_some hne, jacobianOf_some_iff, addY, negAddY, shortCurve_negY, hl, haddX]
  refine ⟨hz, hx, hy.trans ?_⟩
  ring

/-- The chord law of R231, over the common denominator z of the two points. -/
theorem jacobianOf_chord (htwo : (2 : K) ≠ 0) {u1 v1 u2 v2 z h r x3 y3 z3 : K} {h1 : (shortCurve b).Nonsingular u1 v1}
    {h2 : (shortCurve b).Nonsingular u2 v2} (hu : u1 ≠ u2) (hz : z ≠ 0) (hh : h = u2 * z ^ 2 - u1 * z ^ 2)
    (hr : r = v2 * z ^ 3 - v1 * z ^ 3) (hx : x3 = 4 * r ^ 2 - 4 * h ^ 3 - 8 * (u1 * z ^ 2 * h ^ 2))
    (hy : y3 = 2 * r * (4 * (u1 * z ^ 2 * h ^ 2) - x3) - 8 * (v1 * z ^ 3 * h ^ 3)) (hz3 : z3 = 2 * z * h) :
    JacobianOf x3 y3 z3 (Point.some u1 v1 h1 + Point.some u2 v2 h2) := by
  have hdiff : u1 - u2 ≠ 0 := sub_ne_zero.2 hu
  have hhne : h ≠ 0 := by
    rw [hh, ← sub_mul]
    exact mul_ne_zero (sub_ne_zero.2 hu.symm) (pow_ne_zero 2 hz)
  obtain ⟨l, hl⟩ : ∃ l, l = (v1 - v2) / (u1 - u2) := ⟨_, rfl⟩
  have hline : l * (u1 - u2) = v1 - v2 := by rw [hl, div_mul_cancel₀ _ hdiff]
  have hr' : r = l * h * z := by rw [hr, hh]; linear_combination z ^ 3 * hline
  have hx' : x3 = (l ^ 2 - u1 - u2) * z3 ^ 2 := by
    rw [hx, hr', hz3]
    linear_combination (-4) * h ^ 2 * hh
  refine jacobianOf_add (fun hne => hu hne.1) ((slope_of_X_ne hu).trans hl.symm) ?_ hx' ?_
  · rw [hz3]
    exact mul_ne_zero (mul_ne_zero htwo hz) hhne
  · rw [hy, hx', hr', hz3]
    ring

/-- The tangent law of R233. -/
theorem jacobianOf_tangent (htwo : (2 : K) ≠ 0) {u v x y z x3 y3 z3 : K} {h1 : (shortCurve b).Nonsingular u v}
    (hv : v ≠ 0) (hz : z ≠ 0) (hx : x = u * z ^ 2) (hy : y = v * z ^ 3) (hx3 : x3 = 9 * x ^ 4 - 8 * (x * y ^ 2))
    (hy3 : y3 = 3 * x ^ 2 * (4 * (x * y ^ 2) - x3) - 8 * y ^ 4) (hz3 : z3 = 2 * y * z) :
    JacobianOf x3 y3 z3 (Point.some u v h1 + Point.some u v h1) := by
  have htwov : 2 * v ≠ 0 := mul_ne_zero htwo hv
  have hnotInverse : v ≠ (shortCurve b).negY u v := by
    rw [shortCurve_negY]
    exact fun h => htwov (by linear_combination h)
  obtain ⟨l, hl⟩ : ∃ l, l = 3 * u ^ 2 / (2 * v) := ⟨_, rfl⟩
  have hslope : (shortCurve b).slope u u v v = l := by
    rw [slope_of_Y_ne rfl hnotInverse, shortCurve_negY, hl]
    simp [shortCurve, two_mul]
  have hline : l * (2 * v) = 3 * u ^ 2 := by rw [hl, div_mul_cancel₀ _ htwov]
  have hlz : 3 * x ^ 2 = l * z3 := by rw [hx, hz3, hy]; linear_combination (-z ^ 4) * hline
  have hx3' : x3 = (l ^ 2 - u - u) * z3 ^ 2 := by
    have : x3 = (3 * x ^ 2) ^ 2 - 8 * (x * y ^ 2) := by rw [hx3]; ring
    rw [this, hlz, hz3, hx]
    ring
  refine jacobianOf_add (fun hne => hnotInverse hne.2) hslope ?_ hx3' ?_
  · rw [hz3, hy]
    exact mul_ne_zero (mul_ne_zero htwo (mul_ne_zero hv (pow_ne_zero 3 hz))) hz
  · rw [hy3, hlz, hx3', hz3, hx, hy]
    ring

end CurveGroup

end Sys2Proof.Proofs
end

section
/-! SUPPORT. The points of the block as representatives of the group of the curve y² = x³ + b2 (spec/45_g2.md R237,
spec/46_scalar_mult.md R265): the point functions are the group's operations, the multipliers its scalar multiple. -/

namespace Sys2Proof.Proofs

open Sys2Proof Sys2Proof.Machine Sys2Proof.Laws

/-! ## The curve of R13 -/

/-- The group of the curve y² = x³ + b2 over the field of p² elements, with its zero (R13, R230). -/
abbrev CurvePoint := (shortCurve (f2val b2)).Point

/-- The canonical words P are Jacobian coordinates of the curve point A (R17, R230). -/
def StandsFor (P : G2) (A : CurvePoint) : Prop := CanonG2 P ∧ JacobianOf (f2val P.X) (f2val P.Y) (f2val P.Z) A

theorem natCast_fq2_ne_zero {n : Nat} (hpos : 0 < n) (hlt : n < Config.p) : (n : Fq2) ≠ 0 :=
  fun h => cast_ne_zero hpos hlt (congrArg QuadraticAlgebra.re h)

theorem two_fq2_ne_zero : (2 : Fq2) ≠ 0 := by exact_mod_cast natCast_fq2_ne_zero two_pos two_lt_p

theorem three_fq2_ne_zero : (3 : Fq2) ≠ 0 := by
  exact_mod_cast natCast_fq2_ne_zero three_pos (by decide +kernel : 3 < Config.p)

theorem f2val_eq_zero_iff {a : Fp2} (ha : Canon2 a) : f2val a = 0 ↔ a = f2zero :=
  ⟨fun h => eq_of_f2val_eq ha f2zero_canon (h.trans f2val_f2zero.symm), fun h => h ▸ f2val_f2zero⟩

theorem f2val_b2_ne_zero : f2val b2 ≠ 0 :=
  mt (f2val_eq_zero_iff ⟨m4_lt, m4_lt⟩).1 (by decide)

/-! ## What a representative says of its point -/

theorem standsFor_zero_iff {P : G2} (hP : CanonG2 P) : StandsFor P 0 ↔ P.Z = f2zero := by
  rw [StandsFor, and_iff_right hP, jacobianOf_zero_iff, f2val_eq_zero_iff hP.2.2]

theorem standsFor_g2zero : StandsFor g2zero 0 := (standsFor_zero_iff g2zero_canon).2 rfl

theorem standsFor_some_iff {P : G2} (hP : CanonG2 P) {u v : Fq2} {h : (shortCurve (f2val b2)).Nonsingular u v} :
    StandsFor P (.some u v h) ↔
      P.Z ≠ f2zero ∧ f2val P.X = u * f2val P.Z ^ 2 ∧ f2val P.Y = v * f2val P.Z ^ 3 := by
  rw [StandsFor, and_iff_right hP, jacobianOf_some_iff, ne_eq, f2val_eq_zero_iff hP.2.2]

theorem onCurve_of_standsFor {P : G2} {A : CurvePoint} (h : StandsFor P A) : OnCurve P := by
  have hP := h.1
  rcases A with _ | ⟨u, v, hA⟩
  · exact onCurve_of_zero ((standsFor_zero_iff hP).1 h)
  · obtain ⟨-, hX, hY⟩ := (standsFor_some_iff hP).1 h
    have hcurve := shortCurve_equation_iff.1 hA.1
    refine (onCurve_iff hP).2 (.inr ?_)
    rw [hX, hY]
    linear_combination f2val P.Z ^ 6 * hcurve

theorem standsFor_pointNeg {P : G2} {A : CurvePoint} (h : StandsFor P A) : StandsFor (pointNeg P) (-A) := by
  refine ⟨pointNeg_canon h.1, ?_⟩
  rw [pointNeg, f2val_f2neg h.1.2.1]
  exact jacobianOf_neg h.2

/-- U1 of R231 is the affine x over the square of the common denominator. -/
theorem f2val_crossX_of_standsFor {P Q : G2} {u v : Fq2} {h : (shortCurve (f2val b2)).Nonsingular u v}
    (hPA : StandsFor P (.some u v h)) (hQ : CanonG2 Q) :
    f2val (crossX P Q) = u * (f2val P.Z * f2val Q.Z) ^ 2 := by
  obtain ⟨-, hX, -⟩ := (standsFor_some_iff hPA.1).1 hPA
  rw [f2val_crossX P hQ.2.2, hX, mul_pow, mul_assoc]

/-- S1 of R231 is the affine y over its cube. -/
theorem f2val_crossY_of_standsFor {P Q : G2} {u v : Fq2} {h : (shortCurve (f2val b2)).Nonsingular u v}
    (hPA : StandsFor P (.some u v h)) (hQ : CanonG2 Q) :
    f2val (crossY P Q) = v * (f2val P.Z * f2val Q.Z) ^ 3 := by
  obtain ⟨-, -, hY⟩ := (standsFor_some_iff hPA.1).1 hPA
  rw [f2val_crossY P hQ.2.2, hY, mul_pow, mul_assoc]

section Group

variable [Fact (Nat.Prime Config.p)] [Fact (∀ r : ZMod Config.p, r ^ 2 ≠ -1 + 0 * r)]

theorem exists_standsFor {P : G2} (hP : CanonG2 P) (hcurve : OnCurve P) : ∃ A, StandsFor P A := by
  by_cases hne : P.Z = f2zero
  · exact ⟨0, (standsFor_zero_iff hP).2 hne⟩
  have hZ : f2val P.Z ≠ 0 := mt (f2val_eq_zero_iff hP.2.2).1 hne
  have hequation := curve_equation hP hcurve hne
  refine ⟨.some (f2val P.X / f2val P.Z ^ 2) (f2val P.Y / f2val P.Z ^ 3)
    (shortCurve_nonsingular two_fq2_ne_zero three_fq2_ne_zero f2val_b2_ne_zero ?_), (standsFor_some_iff hP).2
    ⟨hne, (div_mul_cancel₀ _ (pow_ne_zero 2 hZ)).symm, (div_mul_cancel₀ _ (pow_ne_zero 3 hZ)).symm⟩⟩
  field_simp
  linear_combination hequation

/-- Two values over the same denominator are equal when the numerators are. -/
theorem eq_iff_of_f2val_eq_mul {a b : Fp2} (ha : Canon2 a) (hb : Canon2 b) {x y w : Fq2} (hw : w ≠ 0)
    (hx : f2val a = x * w) (hy : f2val b = y * w) : a = b ↔ x = y := by
  refine ⟨fun hab => mul_right_cancel₀ hw ?_, fun hxy => eq_of_f2val_eq ha hb ?_⟩
  · rw [← hx, ← hy, hab]
  · rw [hx, hy, hxy]

section Operands

variable {P Q : G2} {u1 v1 u2 v2 : Fq2} {hA : (shortCurve (f2val b2)).Nonsingular u1 v1}
  {hB : (shortCurve (f2val b2)).Nonsingular u2 v2} (hPA : StandsFor P (.some u1 v1 hA))
  (hQB : StandsFor Q (.some u2 v2 hB))
include hPA hQB

theorem commonDenominator_ne_zero : f2val P.Z * f2val Q.Z ≠ 0 :=
  mul_ne_zero (jacobianOf_some_iff.1 hPA.2).1 (jacobianOf_some_iff.1 hQB.2).1

theorem crossX_eq_iff : crossX P Q = crossX Q P ↔ u1 = u2 := by
  have hU2 := f2val_crossX_of_standsFor hQB hPA.1
  rw [mul_comm (f2val Q.Z)] at hU2
  exact eq_iff_of_f2val_eq_mul (crossX_canon P Q) (crossX_canon Q P)
    (pow_ne_zero 2 (commonDenominator_ne_zero hPA hQB)) (f2val_crossX_of_standsFor hPA hQB.1) hU2

theorem crossY_eq_iff : crossY P Q = crossY Q P ↔ v1 = v2 := by
  have hS2 := f2val_crossY_of_standsFor hQB hPA.1
  rw [mul_comm (f2val Q.Z)] at hS2
  exact eq_iff_of_f2val_eq_mul (crossY_canon P Q) (crossY_canon Q P)
    (pow_ne_zero 3 (commonDenominator_ne_zero hPA hQB)) (f2val_crossY_of_standsFor hPA hQB.1) hS2

end Operands

/-- Representatives of one point are equal points (R266). -/
theorem samePoint_of_standsFor {P Q : G2} {A : CurvePoint} (hPA : StandsFor P A) (hQA : StandsFor Q A) :
    SamePoint P Q := by
  have hP := hPA.1
  have hQ := hQA.1
  rcases A with _ | ⟨u, v, hA⟩
  · exact .inl ⟨(iszero_iff P).2 ((standsFor_zero_iff hP).1 hPA), (iszero_iff Q).2 ((standsFor_zero_iff hQ).1 hQA)⟩
  · obtain ⟨hPne, -⟩ := (standsFor_some_iff hP).1 hPA
    obtain ⟨hQne, -⟩ := (standsFor_some_iff hQ).1 hQA
    exact .inr ⟨decide_eq_false hPne, decide_eq_false hQne, (crossX_eq_iff hPA hQA).2 rfl,
      (crossY_eq_iff hPA hQA).2 rfl⟩

/-! ## Doubling and addition are the group's (R231, R233) -/

theorem standsFor_pointDbl {P : G2} {A : CurvePoint} (h : StandsFor P A) : StandsFor (pointDbl P) (A + A) := by
  have hP := h.1
  rcases A with _ | ⟨u, v, hA⟩
  · rwa [pointDbl_of_zero ((standsFor_zero_iff hP).1 h)]
  obtain ⟨hne, hX, hY⟩ := (standsFor_some_iff hP).1 h
  by_cases hv : v = 0
  · have hY0 : P.Y = f2zero := (f2val_eq_zero_iff hP.2.1).1 (by rw [hY, hv, zero_mul])
    have hsum := WeierstrassCurve.Affine.Point.add_self_of_Y_eq (h₁ := hA) (by rw [shortCurve_negY, hv, neg_zero])
    rw [hsum]
    exact (standsFor_zero_iff (pointDbl_canon hP)).2 (pointDbl_Z_of_Y_zero hY0)
  · rw [pointDbl_of_nonzero hne]
    exact ⟨tangentPoint_canon P, jacobianOf_tangent two_fq2_ne_zero hv (mt (f2val_eq_zero_iff hP.2.2).1 hne) hX hY
      (f2val_tangentPoint_X hP.1 hP.2.1) (f2val_tangentPoint_Y hP.1 hP.2.1) (f2val_tangentPoint_Z P)⟩

/-- The chord branch of R231: the affine points differ in x. -/
theorem standsFor_chordSum {P Q : G2} {u1 v1 u2 v2 : Fq2} {hA : (shortCurve (f2val b2)).Nonsingular u1 v1}
    {hB : (shortCurve (f2val b2)).Nonsingular u2 v2} (hPA : StandsFor P (.some u1 v1 hA))
    (hQB : StandsFor Q (.some u2 v2 hB)) (hu : u1 ≠ u2) :
    StandsFor (chordSum P Q) (WeierstrassCurve.Affine.Point.some u1 v1 hA + .some u2 v2 hB) := by
  have hU1 := f2val_crossX_of_standsFor hPA hQB.1
  have hU2 := f2val_crossX_of_standsFor hQB hPA.1
  have hS1 := f2val_crossY_of_standsFor hPA hQB.1
  have hS2 := f2val_crossY_of_standsFor hQB hPA.1
  rw [mul_comm (f2val Q.Z)] at hU2 hS2
  refine ⟨chordSum_canon P Q, jacobianOf_chord (h := f2val (chordH P Q)) (r := f2val (chordR P Q)) two_fq2_ne_zero hu
    (commonDenominator_ne_zero hPA hQB) ?_ ?_ ?_ ?_ (f2val_chordSum_Z hPA.1.2.2 hQB.1.2.2)⟩
  · rw [f2val_chordH, hU1, hU2]
  · rw [f2val_chordR, hS1, hS2]
  · rw [f2val_chordSum_X, hU1]
  · rw [f2val_chordSum_Y, hU1, hS1]

/-- The branches of R231 on points that are not zero are the cases of the group's sum. -/
theorem standsFor_pointAdd_of_some {P Q : G2} {u1 v1 u2 v2 : Fq2} {hA : (shortCurve (f2val b2)).Nonsingular u1 v1}
    {hB : (shortCurve (f2val b2)).Nonsingular u2 v2} (hPA : StandsFor P (.some u1 v1 hA))
    (hQB : StandsFor Q (.some u2 v2 hB)) :
    StandsFor (pointAdd P Q) (WeierstrassCurve.Affine.Point.some u1 v1 hA + .some u2 v2 hB) := by
  obtain ⟨hPne, -⟩ := (standsFor_some_iff hPA.1).1 hPA
  obtain ⟨hQne, -⟩ := (standsFor_some_iff hQB.1).1 hQB
  have hcrossX := crossX_eq_iff hPA hQB
  have hcrossY := crossY_eq_iff hPA hQB
  by_cases hu : u1 = u2
  · by_cases hv : v1 = v2
    · rw [pointAdd_of_equal hPne hQne (hcrossX.2 hu) (hcrossY.2 hv)]
      subst hu hv
      exact standsFor_pointDbl hPA
    · have hinverse : v1 = (shortCurve (f2val b2)).negY u2 v2 :=
        (WeierstrassCurve.Affine.Y_eq_of_X_eq hA.1 hB.1 hu).resolve_left hv
      rw [pointAdd_of_inverse hPne hQne (hcrossX.2 hu) (mt hcrossY.1 hv),
        WeierstrassCurve.Affine.Point.add_of_Y_eq hu hinverse]
      exact standsFor_g2zero
  · rw [pointAdd_of_chord hPne hQne (mt hcrossX.1 hu)]
    exact standsFor_chordSum hPA hQB hu

theorem standsFor_pointAdd {P Q : G2} {A B : CurvePoint} (hPA : StandsFor P A) (hQB : StandsFor Q B) :
    StandsFor (pointAdd P Q) (A + B) := by
  rcases A with _ | ⟨u1, v1, hA⟩
  · rw [pointAdd_of_left_zero Q ((standsFor_zero_iff hPA.1).1 hPA)]
    exact hQB
  rcases B with _ | ⟨u2, v2, hB⟩
  · rw [pointAdd_of_right_zero ((standsFor_some_iff hPA.1).1 hPA).1 ((standsFor_zero_iff hQB.1).1 hQB)]
    exact hPA
  exact standsFor_pointAdd_of_some hPA hQB

/-! ## The multipliers are the group's scalar multiple (R261, R264) -/

theorem standsFor_smulLoop {k e : Nat} (h : e < 2 ^ k) {q n : G2} {A B : CurvePoint} (hq : StandsFor q B)
    (hn : StandsFor n A) : StandsFor (smulLoop e k 0 q n) (B + e • A) := by
  induction k generalizing e q n A B with
  | zero =>
    obtain rfl : e = 0 := by omega
    rw [zero_nsmul, add_zero]
    exact hq
  | succ k ih =>
    have hsum : StandsFor (if e.testBit 0 then pointAdd q n else q) (B + (e % 2) • A) := by
      rw [Nat.testBit_zero]
      rcases Nat.mod_two_eq_zero_or_one e with heven | hodd
      · rw [heven, zero_nsmul, add_zero]
        exact hq
      · rw [hodd, one_nsmul]
        exact standsFor_pointAdd hq hn
    have hsplit : e • A = (e % 2) • A + (e / 2) • (A + A) := by
      rw [← two_nsmul, ← mul_nsmul, ← add_nsmul, Nat.mod_add_div]
    rw [smulLoop_succ, hsplit, ← add_assoc]
    exact ih (by omega) hsum (standsFor_pointDbl hn)

theorem standsFor_smul {P : G2} {A : CurvePoint} (h : StandsFor P A) {e : Nat} (he : e < 2 ^ 1024) :
    StandsFor (smul P e) (e • A) := by
  rw [← zero_add (e • A)]
  exact standsFor_smulLoop he standsFor_g2zero h

theorem standsFor_oddMultiple {P : G2} {A : CurvePoint} (h : StandsFor P A) (j : Nat) :
    StandsFor (oddMultiple P j) ((2 * j + 1 : Int) • A) := by
  induction j with
  | zero => simpa [oddMultiple] using h
  | succ j ih =>
    have hnext : ((2 * (j + 1 : Nat) + 1 : Int) • A) = (2 * j + 1 : Int) • A + (A + A) := by
      push_cast
      module
    rw [hnext, oddMultiple, Function.iterate_succ_apply']
    exact standsFor_pointAdd ih (standsFor_pointDbl h)

theorem standsFor_digitMultiple {P : G2} {A : CurvePoint} (h : StandsFor P A) {d : Int} (hd : NafDigitLegal d)
    (hne : d ≠ 0) : StandsFor (digitMultiple P d) (d • A) := by
  obtain ⟨hodd, -⟩ := hd.resolve_left hne
  have hmultiple := standsFor_oddMultiple h ((d.natAbs - 1) / 2)
  rw [digitMultiple]
  split_ifs with hpos
  · have hval : (2 * ((d.natAbs - 1) / 2 : Nat) + 1 : Int) = d := by omega
    rwa [hval] at hmultiple
  · have hval : (2 * ((d.natAbs - 1) / 2 : Nat) + 1 : Int) = -d := by omega
    rw [hval] at hmultiple
    rw [← neg_neg (d • A), ← neg_zsmul]
    exact standsFor_pointNeg hmultiple

theorem standsFor_windowStep {P q : G2} {A : CurvePoint} {m : Int} (h : StandsFor P A)
    (hq : StandsFor q (m • A)) {d : Int} (hd : NafDigitLegal d) : StandsFor (windowStep P q d) ((d + 2 * m) • A) := by
  have hdouble := standsFor_pointDbl hq
  rw [windowStep_eq]
  split_ifs with hzero
  · rw [hzero, zero_add, two_mul, add_zsmul]
    exact hdouble
  · rw [add_comm, two_mul, add_zsmul, add_zsmul]
    exact standsFor_pointAdd hdouble (standsFor_digitMultiple h hd hzero)

theorem standsFor_foldr_windowStep {P : G2} {A : CurvePoint} (h : StandsFor P A) {ds : List Int}
    (hds : ∀ d ∈ ds, NafDigitLegal d) :
    StandsFor (ds.foldr (fun d q => windowStep P q d) g2zero) (ds.foldr (fun d acc => d + 2 * acc) 0 • A) := by
  induction ds with
  | nil =>
    rw [List.foldr_nil, List.foldr_nil, zero_zsmul]
    exact standsFor_g2zero
  | cons d ds ih =>
    obtain ⟨hd, hds⟩ := List.forall_mem_cons.1 hds
    exact standsFor_windowStep h (ih hds) hd

theorem standsFor_smulw {P : G2} {A : CurvePoint} (h : StandsFor P A) {e : Nat} (he : e < 2 ^ 1024) :
    StandsFor (smulw P e) (e • A) := by
  rw [smulw_eq_foldl, List.foldl_reverse, ← natCast_zsmul, ← naf_sum he]
  exact standsFor_foldr_windowStep h (naf_legal e)

end Group

/-- Settles O39: a multiple of a curve point is a curve point. -/
theorem scalarMultiplesStayOnTheCurve : Obligations.ScalarMultiplesStayOnTheCurve := by
  have := p_fact
  have := fq2_fact
  intro P e hP hcurve he
  obtain ⟨A, hA⟩ := exists_standsFor hP hcurve
  have hbinary := standsFor_smul hA he
  have hwindowed := standsFor_smulw hA he
  exact ⟨hbinary.1, onCurve_of_standsFor hbinary, hwindowed.1, onCurve_of_standsFor hwindowed⟩

/-- Settles O43: both words stand for the multiple e·P in the group of the curve. -/
theorem multipliersAgreeOnTheCurve : Obligations.MultipliersAgreeOnTheCurve := by
  have := p_fact
  have := fq2_fact
  intro P e hP hcurve he
  obtain ⟨A, hA⟩ := exists_standsFor hP hcurve
  exact samePoint_of_standsFor (standsFor_smulw hA he) (standsFor_smul hA he)

end Sys2Proof.Proofs
end

section
/-! SUPPORT. The check procedure and the ends of a run (spec/60_exceptions.md R302 to R306): which codes the check can give
a command, and that pc has no part in a command's result. -/

namespace Sys2Proof.Proofs

open Sys2Proof Sys2Proof.Machine Sys2Proof.Laws

/-! ## The answers of the check procedure (R303) -/

theorem check_illFormed {i : Instr} {s : State} (hwf : i.wellFormed = false) : check i s = some .reservedField := by
  simp [check, hwf]

/-- The check gives one of three codes, each for the test it names, or lets the command execute. -/
theorem check_cases (i : Instr) (s : State) :
    (¬i.wellFormed = true ∧ check i s = some .reservedField) ∨
    (¬rangesOk i = true ∧ check i s = some .operandRange) ∨
    (¬sourcesCanonical i s = true ∧ check i s = some .noncanonical) ∨
    check i s = none := by
  by_cases hwf : i.wellFormed = true
  · by_cases hr : rangesOk i = true
    · by_cases hc : sourcesCanonical i s = true
      · exact .inr (.inr (.inr ((check_eq_none_iff i s).2 ⟨hwf, hr, hc⟩)))
      · exact .inr (.inr (.inl ⟨hc, check_noncanonical hwf hr hc⟩))
    · exact .inr (.inl ⟨hr, check_outOfRange hwf hr⟩)
  · exact .inl ⟨hwf, check_illFormed (Bool.eq_false_of_not_eq_true hwf)⟩

/-- MOV is the one command whose sources are no field sources (R134). -/
theorem checksCanonical_of_ne_mov {i : Instr} (h : ∀ rd a n, i ≠ .mov rd a n) : checksCanonical i = true := by
  cases i with
  | mov rd a n => exact absurd rfl (h rd a n)
  | _ => rfl

/-- A source word that is p or more fails the canonical check (R21, R303). -/
theorem not_sourcesCanonical {i : Instr} {s : State} (hcan : checksCanonical i = true)
    (h : ∃ o ∈ sourcesOf i, ∃ j, j < o.2 ∧ Config.p ≤ (s.readW (o.1.toNat + j)).toNat) :
    ¬sourcesCanonical i s = true := by
  obtain ⟨o, ho, j, hj, hword⟩ := h
  exact fun hall => Nat.not_lt.2 hword ((sourcesCanonical_iff i s hcan).1 hall o ho j hj)

/-- Settles O7: the three tests of R303 in their order. -/
theorem checkReportsTheFirstFailure : Obligations.CheckReportsTheFirstFailure := by
  intro i s
  refine ⟨check_illFormed, fun hwf hout => ?range, fun hwf hin hmov hword => ?noncanonical, fun hwf hin hsrc => ?pass⟩
  case range =>
    obtain ⟨o, ho, hlarge⟩ := hout
    exact check_outOfRange hwf fun hr => Nat.not_le.2 hlarge ((rangesOk_iff i).1 hr o ho)
  case noncanonical =>
    exact check_noncanonical hwf ((rangesOk_iff i).2 hin)
      (not_sourcesCanonical (checksCanonical_of_ne_mov hmov) hword)
  case pass =>
    refine (check_eq_none_iff i s).2 ⟨hwf, (rangesOk_iff i).2 hin, ?_⟩
    cases hcan : checksCanonical i with
    | false => simp [sourcesCanonical, hcan]
    | true =>
      obtain ⟨rd, a, n, rfl⟩ | hwords := hsrc
      · cases hcan
      · exact (sourcesCanonical_iff i s hcan).2 hwords

/-! ## What an error leaves (R304, R305) -/

theorem errNumber_le (e : ErrCode) : errNumber e ≤ 6 := by cases e <;> decide

/-- STATUS of a block whose run has ended (R42, R301). -/
theorem statusWord_toNat_of_ended {t : State} (hbusy : t.busy = false) (hdone : t.done = true) :
    t.statusWord.toNat = 256 * errNumber t.errcode + (if t.accerr then 4 else 0) + 2 := by
  have hcode := errNumber_le t.errcode
  rw [statusWord_eq_ofNat, hbusy, hdone, BitVec.toNat_ofNat]
  cases t.accerr <;> simp <;> omega

/-- Settles O8: the error is recorded by `endError`, and STATUS shows its number. -/
theorem errorsArePreciseAndRecorded : Obligations.ErrorsArePreciseAndRecorded :=
  fun _ _ _ hc => ⟨_, raises_of_check hc, rfl, statusWord_toNat_of_ended rfl rfl⟩

/-! ## Which commands can raise which codes (R302) -/

/-- A well-formed command on single words can only meet a word that is p or more. -/
theorem check_of_single_words {i : Instr} (s : State) (hwf : i.wellFormed = true) (hones : ∀ o ∈ operandsOf i, o.2 = 1) :
    check i s = none ∨ check i s = some .noncanonical := by
  rcases check_cases i s with ⟨h, -⟩ | ⟨h, -⟩ | ⟨-, hc⟩ | hc
  · exact absurd hwf h
  · exact absurd (rangesOk_of_single_words hones) h
  · exact .inr hc
  · exact .inl hc

/-- A well-formed command whose sources pass, or that has no field sources, can only be out of range. -/
theorem check_of_sourcesCanonical {i : Instr} {s : State} (hwf : i.wellFormed = true)
    (hc : sourcesCanonical i s = true) : check i s = none ∨ check i s = some .operandRange := by
  rcases check_cases i s with ⟨h, -⟩ | ⟨-, hc⟩ | ⟨h, -⟩ | hc
  · exact absurd hwf h
  · exact .inr hc
  · exact absurd hc h
  · exact .inl hc

theorem check_ne_noncanonical {i : Instr} {s : State} (hc : sourcesCanonical i s = true) :
    check i s ≠ some .noncanonical := by
  rcases check_cases i s with ⟨-, h⟩ | ⟨-, h⟩ | ⟨hn, -⟩ | h
  · simp [h]
  · simp [h]
  · exact absurd hc hn
  · simp [h]

/-- Settles O9: the codes of the tests that a command's fields do not pass by themselves. -/
theorem commandsRaiseOnlyTheirCodes : Obligations.CommandsRaiseOnlyTheirCodes := by
  intro s rd a b m k
  refine ⟨⟨rfl, check_halt s⟩, fun n => check_ne_noncanonical rfl, fun c => check_of_sourcesCanonical rfl rfl,
    fun i hi => ?fp, fun i => ?other⟩
  case fp =>
    simp only [List.mem_cons, List.not_mem_nil, or_false] at hi
    rcases hi with rfl | rfl | rfl | rfl | rfl | rfl | rfl | rfl | rfl | rfl <;>
      exact check_of_single_words s rfl (by simp [operandsOf, destOf, sourcesOf])
  case other => rcases check_cases i s with ⟨-, h⟩ | ⟨-, h⟩ | ⟨-, h⟩ | h <;> simp [h]

/-! ## The command at address 255 (R306) -/

/-- A command reads no pc: at another address it is the command cycle with the same result. -/
theorem exec_setPc_eq_command {i : Instr} (s : State) (c : CmdAddr) (h : i ≠ .halt) :
    ∃ rd ws, exec i s = command i rd ws s ∧ exec i { s with pc := c } = command i rd ws { s with pc := c } := by
  cases i with
  | halt => exact absurd rfl h
  | _ => exact ⟨_, _, rfl, rfl⟩

theorem check_setPc (i : Instr) (s : State) (c : CmdAddr) : check i { s with pc := c } = check i s := rfl

theorem writeWords_setPc (s : State) (c : CmdAddr) (b : Nat) (ws : List Word) :
    { s with pc := c }.writeWords b ws = { s.writeWords b ws with pc := c } := by
  induction ws generalizing s b with
  | nil => rfl
  | cons v vs ih => exact ih (s.writeW b v) (b + 1)

theorem advance_last (c : Word32) {s : State} (hpc : s.pc = 255) : advance c s = endError .pcOverflow 255 c s :=
  if_pos hpc

/-- Settles O10: the result is that at address 0, and the end of the run keeps it. -/
theorem overflowAfterTheLastAddress : Obligations.OverflowAfterTheLastAddress := by
  intro i s hpc
  refine ⟨fun hi hc => ?_, exec_halt s⟩
  obtain ⟨rd, ws, hlast, hzero⟩ := exec_setPc_eq_command s 0 hi
  refine ⟨{ s.writeWords rd.toNat ws with pc := 1 }, ?zero, ?last⟩
  case zero => rw [hzero, command, check_setPc, hc, writeWords_setPc]; rfl
  case last =>
    have hend := advance_last (encode i) ((State.writeWords_pc s rd.toNat ws).trans hpc)
    have hframe := congrArg (endError .pcOverflow 255 (encode i)) (writeWords_frame s rd.toNat ws)
    rw [hlast, command, hc]
    exact congrArg Host.Outcome.next (hend.trans hframe)

end Sys2Proof.Proofs
end

section
/-! SUPPORT. Reset, waiting and the end of a run (spec/70_reset_and_hazards.md R318, R340, R343, R349). -/

namespace Sys2Proof.Proofs

open Sys2Proof Sys2Proof.Machine Sys2Proof.Laws

/-! ## Waiting and the unwritten entry (R318, R343) -/

theorem coreStep_unwritten {s : State} (hbusy : s.busy = true) (hf : s.fetch = none) :
    coreStep s = .fault (.uninit (.cmd s.pc.toNat)) := by simp [coreStep, hbusy, hf]

/-- Settles O6: with nothing scheduled the step is the core's. -/
theorem idleBlockWaitsAndUnwrittenFetchFaults : Obligations.IdleBlockWaitsAndUnwrittenFetchFaults :=
  fun _ hs => ⟨fun hidle => (step_unscheduled hs).trans (coreStep_idle hidle),
    fun hbusy hf => (step_unscheduled hs).trans (coreStep_unwritten hbusy hf)⟩

/-! ## Reset (R340, R341) -/

theorem wWritten_reset (i : Nat) : State.reset.wWritten i = false := by
  unfold State.wWritten State.reset
  rw [Vector.getElem?_replicate]
  split <;> rfl

theorem sWritten_reset (k : Nat) : State.reset.sWritten k = false := by
  unfold State.sWritten State.reset
  rw [Vector.getElem?_replicate]
  split <;> rfl

theorem statusWord_reset : State.reset.statusWord = 0 := by decide

theorem ctrlWord_reset : State.reset.ctrlWord = 0 := by decide

/-- Settles O48: the pulse leaves the state after reset, with the schedule's rest. -/
theorem resetRestoresTheControlState : Obligations.ResetRestoresTheControlState := fun _ _ hs =>
  ⟨_, step_reset hs, rfl, statusWord_reset, ctrlWord_reset, rfl, rfl, rfl, rfl, rfl, wWritten_reset,
    sWritten_reset, fun _ => rfl⟩

/-! ## The end of a run (R349) -/

/-- A run in progress with nothing scheduled and every entry from pc on written. -/
structure RunsOnWritten (s : State) : Prop where
  unscheduled : s.script = []
  busy : s.busy = true
  written : ∀ a, s.pc.toNat ≤ a → a < 256 → s.cmd.read a ≠ none

theorem toNat_succ_of_ne_last {c : CmdAddr} (h : c ≠ 255) : (c + 1).toNat = c.toNat + 1 := by bv_omega

/-- A step of such a run ends it, or goes on with it at the next address. -/
theorem RunsOnWritten.goesOn_or_ends {s : State} (h : RunsOnWritten s) :
    ∃ t, step s = .next t ∧
      ((t.busy = false ∧ t.done = true) ∨ (RunsOnWritten t ∧ t.pc.toNat = s.pc.toNat + 1)) := by
  rw [step_unscheduled h.unscheduled]
  rcases coreStep_cases s with ⟨hidle, -⟩ | ⟨-, hf, -⟩ | ⟨w, e, -, -, -, hn⟩ | ⟨w, i, -, -, -, hn⟩
  · exact absurd h.busy (by simp [hidle])
  · exact absurd hf (h.written _ le_rfl s.pc.isLt)
  · exact ⟨_, hn, .inl ⟨rfl, rfl⟩⟩
  · obtain ⟨t, ht⟩ := exec_next i s
    refine ⟨t, hn.trans ht, ?_⟩
    rcases exec_advances_or_ends ht with ⟨hlast, hpc, hbusy, -⟩ | ⟨-, hend⟩
    · have hnext : t.pc.toNat = s.pc.toNat + 1 := by rw [hpc, toNat_succ_of_ne_last hlast]
      refine .inr ⟨⟨?_, hbusy.trans h.busy, fun a ha => ?_⟩, hnext⟩
      · exact (congrArg State.script (exec_commandFrame ht)).trans h.unscheduled
      · rw [exec_cmd ht]
        exact h.written a (by omega)
    · exact .inl hend

theorem core_run_succ {s t : State} (h : step s = .next t) (k : Nat) : core.run (k + 1) s = core.run k t := by
  have hcore : core.step s = .next t := h
  simp only [Host.Core.run, hcore]

/-- A run whose pc is at most n short of 256 ends within n steps. -/
theorem RunsOnWritten.ends {n : Nat} {s : State} (h : RunsOnWritten s) (hn : 256 - s.pc.toNat ≤ n) :
    ∃ (k : Nat) (t : State), k ≤ n ∧ core.run k s = .next t ∧ t.busy = false ∧ t.done = true := by
  induction n generalizing s with
  | zero => have := s.pc.isLt; omega
  | succ n ih =>
    obtain ⟨u, hu, hend | ⟨hruns, hpc⟩⟩ := h.goesOn_or_ends
    · exact ⟨1, u, by omega, core_run_succ hu 0, hend⟩
    · obtain ⟨k, t, hk, ht, hend⟩ := ih hruns (by omega)
      exact ⟨k + 1, t, by omega, (core_run_succ hu k).trans ht, hend⟩

/-- Settles O46: each step of the run ends it or brings pc one nearer to 256. -/
theorem everyRunEndsWithin256Steps : Obligations.EveryRunEndsWithin256Steps :=
  fun _ hs hbusy hw => RunsOnWritten.ends ⟨hs, hbusy, hw⟩ le_rfl

end Sys2Proof.Proofs
end

section
/-! SUPPORT. The step of spec/70_reset_and_hazards.md R343 beside the machine's step: the location that a command, or a
host read, is stopped at is one that it would read and that has not been written since reset. -/

namespace Sys2Proof.Proofs

open Sys2Proof Sys2Proof.Machine Sys2Proof.Laws

/-! ## The visit of the source words (R303) -/

/-- A visit that is stopped has come to a checked word that is not canonical. -/
theorem visitSources_stopped {canon : Bool} {s : State} {js : List Nat} (h : visitSources canon s js = .stopped) :
    canon = true ∧ ∃ j ∈ js, s.canonical j = false := by
  induction js with
  | nil => cases h
  | cons i is ih =>
    unfold visitSources at h
    split at h
    · cases h
    · split at h
      · next hc =>
        obtain ⟨hcan, hi⟩ : canon = true ∧ s.canonical i = false := by simpa using hc
        exact ⟨hcan, i, List.mem_cons_self, hi⟩
      · obtain ⟨hcan, j, hj, hnot⟩ := ih h
        exact ⟨hcan, j, List.mem_cons_of_mem _ hj, hnot⟩

theorem sourcesCanonical_of_complete {i : Instr} {s : State}
    (h : visitSources (checksCanonical i) s (sourceIndices i) = .complete) : sourcesCanonical i s = true := by
  cases hcan : checksCanonical i with
  | false => simp [sourcesCanonical, hcan]
  | true =>
    have hall : (sourceIndices i).all s.canonical = true :=
      List.all_eq_true.2 fun j hj => (visitSources_complete h j hj).2 hcan
    simp [sourcesCanonical, hall]

theorem not_sourcesCanonical_of_stopped {i : Instr} {s : State}
    (h : visitSources (checksCanonical i) s (sourceIndices i) = .stopped) : ¬sourcesCanonical i s = true := by
  obtain ⟨hcan, j, hj, hnot⟩ := visitSources_stopped h
  intro hc
  have hall : (sourceIndices i).all s.canonical = true := by simpa [sourcesCanonical, hcan] using hc
  exact Bool.false_ne_true (hnot.symm.trans (List.all_eq_true.1 hall j hj))

/-! ## The location a command is stopped at -/

/-- The command reads location l: a source word that its check comes to, or its scalar register. -/
def CommandReads (i : Instr) (s : State) (l : Storage) : Prop :=
  (∃ j, l = .w j ∧ Visits i s j) ∨ ∃ k, l = .s k.toNat ∧ ReadsScalar i s k

theorem commandUninit_unwritten {i : Instr} {s : State} {j : Nat} (hwf : i.wellFormed = true)
    (hr : rangesOk i = true) (hv : visitSources (checksCanonical i) s (sourceIndices i) = .unwritten j) :
    commandUninit i s = some (.w j) := by simp [commandUninit, hwf, hr, hv]

theorem commandUninit_scalar {i : Instr} {s : State} {k : SIdx} (hwf : i.wellFormed = true)
    (hr : rangesOk i = true) (hv : visitSources (checksCanonical i) s (sourceIndices i) = .complete)
    (hk : scalarOf i = some k) (hw : s.sWritten k.toNat = false) : commandUninit i s = some (.s k.toNat) := by
  simp [commandUninit, hwf, hr, hv, hk, hw]

/-- A command is stopped only at what it reads and has not been written. -/
theorem commandUninit_some {i : Instr} {s : State} {l : Storage} (h : commandUninit i s = some l) :
    CommandReads i s l ∧ ¬Written s l := by
  unfold commandUninit at h
  split at h
  · cases h
  · next hok =>
    obtain ⟨-, hr⟩ : i.wellFormed = true ∧ rangesOk i = true := by simpa using hok
    split at h
    · next j hv =>
      cases h
      obtain ⟨hw, hvisits⟩ := visitSources_unwritten hv
      exact ⟨.inl ⟨j, rfl, hr, hvisits⟩, by simp [Written, hw]⟩
    · cases h
    · next hv =>
      split at h
      · next k hk =>
        split at h
        · cases h
        · next hw =>
          cases h
          exact ⟨.inr ⟨k, rfl, hr, hk, sourcesCanonical_of_complete hv⟩, hw⟩
      · cases h

/-- A command that would read something not written is stopped, there or before. -/
theorem commandUninit_of_reads {i : Instr} {s : State} {l : Storage} (hwf : i.wellFormed = true)
    (h : CommandReads i s l) (hl : ¬Written s l) : ∃ m, commandUninit i s = some m := by
  rcases h with ⟨j, rfl, hr, before, after, hsrc, hbefore⟩ | ⟨k, rfl, hr, hk, hcan⟩
  · obtain ⟨m, hm⟩ := visitSources_meets (after := after) (Bool.eq_false_of_not_eq_true hl) hbefore
    exact ⟨_, commandUninit_unwritten hwf hr (hsrc ▸ hm)⟩
  · cases hv : visitSources (checksCanonical i) s (sourceIndices i) with
    | unwritten m => exact ⟨_, commandUninit_unwritten hwf hr hv⟩
    | stopped => exact absurd hcan (not_sourcesCanonical_of_stopped hv)
    | complete => exact ⟨_, commandUninit_scalar hwf hr hv hk (Bool.eq_false_of_not_eq_true hl)⟩

/-! ## The location a host read is stopped at (R72, R78) -/

/-- The host read at `off` returns bits of location l. -/
def HostReads (off : Offset) (l : Storage) : Prop :=
  (∃ i j, l = .w i ∧ locate off = .w i j) ∨ ∃ k j, l = .s k ∧ locate off = .s k j

/-- A host read is stopped only where it is served and returns bits of what has not been written. -/
theorem readUninit_some {n : Nat} {off : Offset} {s : State} {l : Storage} (h : readUninit n off s = some l) :
    n = 4 ∧ off.toNat % 4 = 0 ∧ s.busy = false ∧ HostReads off l ∧ ¬Written s l := by
  unfold readUninit at h
  split at h
  · next hserved =>
    obtain ⟨hok, hidle⟩ : accessOk n off = true ∧ s.busy = false := by simpa using hserved
    obtain ⟨hn, haligned⟩ := accessOk_iff.1 hok
    refine ⟨hn, haligned, hidle, ?_⟩
    cases hloc : locate off with
    | w i j =>
      obtain ⟨hw, rfl⟩ : ¬s.wWritten i = true ∧ Storage.w i = l := by simpa [hloc] using h
      exact ⟨.inl ⟨i, j, rfl, hloc⟩, hw⟩
    | s k j =>
      obtain ⟨hw, rfl⟩ : ¬s.sWritten k = true ∧ Storage.s k = l := by simpa [hloc] using h
      exact ⟨.inr ⟨k, j, rfl, hloc⟩, hw⟩
    | _ => simp [hloc] at h
  · cases h

theorem readUninit_of_reads {off : Offset} {s : State} {l : Storage} (haligned : off.toNat % 4 = 0)
    (hidle : s.busy = false) (h : HostReads off l) (hl : ¬Written s l) : readUninit 4 off s = some l := by
  have hok : accessOk 4 off = true := accessOk_iff.2 ⟨rfl, haligned⟩
  rcases h with ⟨i, j, rfl, hloc⟩ | ⟨k, j, rfl, hloc⟩
  · have hw : s.wWritten i = false := Bool.eq_false_of_not_eq_true hl
    simp [readUninit, hok, hidle, hloc, hw]
  · have hw : s.sWritten k = false := Bool.eq_false_of_not_eq_true hl
    simp [readUninit, hok, hidle, hloc, hw]

/-! ## The location a step is stopped at -/

theorem stepUninit_core {s : State} (h : CoreTurn s) : stepUninit s = coreUninit s := by
  rcases h with hs | ⟨rest, hs⟩ <;> simp [stepUninit, hs]

theorem stepUninit_read {s : State} {n : Nat} {off : Offset} {rest : List Action}
    (h : s.script = .read n off :: rest) : stepUninit s = readUninit n off s := by simp [stepUninit, h]

theorem coreUninit_decoded {s : State} {w : Word32} {i : Instr} (hbusy : s.busy = true) (hw : s.fetch = some w)
    (hd : decode w = .ok i) : coreUninit s = commandUninit i s := by simp [coreUninit, hbusy, hw, hd]

theorem step_unwritten {s : State} (h : CoreTurn s) (hbusy : s.busy = true) (hf : s.fetch = none) :
    step s = .fault (.uninit (.cmd s.pc.toNat)) := by
  rcases h with hs | ⟨rest, hs⟩
  · exact (step_unscheduled hs).trans (coreStep_unwritten hbusy hf)
  · exact (step_core hs).trans (coreStep_unwritten (s := { s with script := rest }) hbusy hf)

/-- A core step is stopped at the unwritten entry it fetches, or where the fetched command is. -/
theorem coreUninit_some {s : State} {l : Storage} (h : coreUninit s = some l) :
    s.busy = true ∧
      ((s.fetch = none ∧ l = .cmd s.pc.toNat) ∨
       ∃ w i, s.fetch = some w ∧ decode w = .ok i ∧ commandUninit i s = some l) := by
  unfold coreUninit at h
  split at h
  · next hbusy =>
    refine ⟨hbusy, ?_⟩
    split at h
    · next hf => cases h; exact .inl ⟨hf, rfl⟩
    · next w hf =>
      split at h
      · cases h
      · next i hd => exact .inr ⟨w, i, hf, hd, h⟩
  · cases h

/-- A step is stopped where the machine's step faults alike, or at what it would read and has not been written. -/
theorem stepUninit_some {s : State} {l : Storage} (h : stepUninit s = some l) :
    step s = .fault (.uninit l) ∨ (WouldRead s l ∧ ¬Written s l) := by
  have hcore (hturn : CoreTurn s) : step s = .fault (.uninit l) ∨ (WouldRead s l ∧ ¬Written s l) := by
    rw [stepUninit_core hturn] at h
    obtain ⟨hbusy, ⟨hf, rfl⟩ | ⟨w, i, hw, hd, hc⟩⟩ := coreUninit_some h
    · exact .inl (step_unwritten hturn hbusy hf)
    · obtain ⟨hreads, hl⟩ := commandUninit_some hc
      exact .inr ⟨.inl ⟨hturn, hbusy, w, i, hw, hd, hreads⟩, hl⟩
  cases hs : s.script with
  | nil => exact hcore (.inl hs)
  | cons a rest =>
    cases a with
    | core => exact hcore (.inr ⟨rest, hs⟩)
    | read n off =>
      rw [stepUninit_read hs] at h
      obtain ⟨rfl, haligned, hidle, hreads, hl⟩ := readUninit_some h
      exact .inr ⟨.inr ⟨off, rest, hs, haligned, hidle, hreads⟩, hl⟩
    | write | reset => simp [stepUninit, hs] at h

/-- A step that would read something not written is stopped at such a location. -/
theorem stepUninit_of_wouldRead {s : State} {l : Storage} (h : WouldRead s l) (hl : ¬Written s l) :
    ∃ m, stepUninit s = some m ∧ WouldRead s m ∧ ¬Written s m := by
  rcases h with ⟨hturn, hbusy, w, i, hw, hd, hreads⟩ | ⟨off, rest, hs, haligned, hidle, hreads⟩
  · obtain ⟨m, hm⟩ := commandUninit_of_reads (encode_of_decode hd).2 hreads hl
    obtain ⟨hmReads, hmUnwritten⟩ := commandUninit_some hm
    exact ⟨m, by rw [stepUninit_core hturn, coreUninit_decoded hbusy hw hd, hm],
      .inl ⟨hturn, hbusy, w, i, hw, hd, hmReads⟩, hmUnwritten⟩
  · exact ⟨l, by rw [stepUninit_read hs, readUninit_of_reads haligned hidle hreads hl],
      .inr ⟨off, rest, hs, haligned, hidle, hreads⟩, hl⟩

/-! ## The checked step -/

theorem checkedStep_stopped {s : State} {l : Storage} (h : stepUninit s = some l) :
    checkedStep s = .fault (.uninit l) := by simp [checkedStep, h]

theorem checkedStep_free {s : State} (h : stepUninit s = none) : checkedStep s = step s := by simp [checkedStep, h]

/-- Settles O60: `stepUninit` names a location just where the step would read one that has not been written, or
faults itself. -/
theorem checkedStepRefinesStep : Obligations.CheckedStepRefinesStep := by
  intro s
  refine ⟨fun t ht => ?next, fun l hl => ?fault, fun hall => ?written, fun l hreads hl => ?unwritten⟩
  case next =>
    cases hu : stepUninit s with
    | none => rwa [checkedStep_free hu] at ht
    | some m => rw [checkedStep_stopped hu] at ht; cases ht
  case fault =>
    cases hu : stepUninit s with
    | none => rw [checkedStep_free hu] at hl; exact .inl hl
    | some m => rw [checkedStep_stopped hu] at hl; cases hl; exact stepUninit_some hu
  case written =>
    cases hu : stepUninit s with
    | none => exact checkedStep_free hu
    | some m =>
      rcases stepUninit_some hu with hfault | ⟨hreads, hm⟩
      · exact (checkedStep_stopped hu).trans hfault.symm
      · exact absurd (hall m hreads) hm
  case unwritten =>
    obtain ⟨m, hm, hreads', hm'⟩ := stepUninit_of_wouldRead hreads hl
    exact ⟨m, checkedStep_stopped hm, hreads', hm'⟩

end Sys2Proof.Proofs
end

section
/-! SUPPORT. What a command's result depends on: two states that hold the same in the words of its sources and in its
scalar register give the same words (spec/40_control.md R130). -/

namespace Sys2Proof.Proofs

open Sys2Proof Sys2Proof.Machine Sys2Proof.Laws

/-! ## Values read from the same words (R18) -/

/-- W[b], ..., W[b + n - 1] hold the same in both states. -/
def SameWords (b n : Nat) (s t : State) : Prop := ∀ j, j < n → s.readW (b + j) = t.readW (b + j)

/-- Part of an operand: m of its words, from word k on. -/
theorem SameWords.part {b n : Nat} {s t : State} (h : SameWords b n s t) (k : Nat) {m : Nat} (hk : k + m ≤ n) :
    SameWords (b + k) m s t := fun j hj => by rw [Nat.add_assoc]; exact h (k + j) (by omega)

theorem SameWords.start {b n m : Nat} {s t : State} (h : SameWords b n s t) (hm : m ≤ n) : SameWords b m s t :=
  fun j hj => h j (hj.trans_le hm)

section SameValues

variable {b : Nat} {s t : State}

theorem rdFp_same (h : SameWords b 1 s t) : s.rdFp b = t.rdFp b := congrArg BitVec.toNat (h 0 Nat.one_pos)

theorem rdFp2_same (h : SameWords b 2 s t) : s.rdFp2 b = t.rdFp2 b :=
  congrArg₂ Fp2.mk (rdFp_same (h.start (by omega))) (rdFp_same (h.part 1 le_rfl))

theorem rdAff_same (h : SameWords b 4 s t) : s.rdAff b = t.rdAff b :=
  congrArg₂ Aff.mk (rdFp2_same (h.start (by omega))) (rdFp2_same (h.part 2 le_rfl))

theorem rdFp6_same (h : SameWords b 6 s t) : s.rdFp6 b = t.rdFp6 b := by
  rw [State.rdFp6, rdFp2_same (h.start (by omega)), rdFp2_same (h.part 2 (by omega)), rdFp2_same (h.part 4 le_rfl)]
  rfl

theorem rdG2_same (h : SameWords b 6 s t) : s.rdG2 b = t.rdG2 b := by
  rw [State.rdG2, rdFp2_same (h.start (by omega)), rdFp2_same (h.part 2 (by omega)), rdFp2_same (h.part 4 le_rfl)]
  rfl

theorem rdFp12_same (h : SameWords b 12 s t) : s.rdFp12 b = t.rdFp12 b :=
  congrArg₂ Fp12.mk (rdFp6_same (h.start (by omega))) (rdFp6_same (h.part 6 le_rfl))

theorem rdRaw_same {n : Nat} (h : SameWords b n s t) : s.rdRaw b n = t.rdRaw b n := by
  rw [rdRaw_eq_map_range, rdRaw_eq_map_range]
  exact List.map_congr_left fun j hj => h j (List.mem_range.1 hj)

end SameValues

/-! ## The result of a command -/

/-- Everything command i reads is the same in both states. -/
structure SameSources (i : Instr) (s t : State) : Prop where
  words : ∀ o ∈ sourcesOf i, SameWords o.1.toNat o.2 s t
  scalar : ∀ k, scalarOf i = some k → s.readS k = t.readS k

theorem SameSources.first {i : Instr} {s t : State} {o : WIdx × Nat} {os : List (WIdx × Nat)}
    (h : SameSources i s t) (ho : sourcesOf i = o :: os) : SameWords o.1.toNat o.2 s t :=
  h.words o (ho ▸ List.mem_cons_self)

theorem SameSources.second {i : Instr} {s t : State} {o o' : WIdx × Nat}
    (h : SameSources i s t) (ho : sourcesOf i = [o, o']) : SameWords o'.1.toNat o'.2 s t :=
  h.words o' (ho ▸ List.mem_cons_of_mem _ List.mem_cons_self)

/-- The command is the command cycle in both states, with one result. -/
def SameResult (i : Instr) (s t : State) : Prop :=
  ∃ rd ws, exec i s = command i rd ws s ∧ exec i t = command i rd ws t

theorem exec_sameResult {i : Instr} {s t : State} (hi : i ≠ .halt) (h : SameSources i s t) : SameResult i s t := by
  cases i with
  | halt => exact absurd rfl hi
  | nop => exact ⟨0, [], rfl, rfl⟩
  | ldc rd k => exact ⟨rd, ldcWords k, rfl, rfl⟩
  | mov => exact ⟨_, _, rfl, by rw [rdRaw_same (h.first rfl)]; rfl⟩
  | fneg | fdbl | fsqr | finv | tomont | frommont => exact ⟨_, _, rfl, by rw [rdFp_same (h.first rfl)]; rfl⟩
  | fadd | fsub | fmul => exact ⟨_, _, rfl, by rw [rdFp_same (h.first rfl), rdFp_same (h.second rfl)]; rfl⟩
  | fexp => exact ⟨_, _, rfl, by rw [rdFp_same (h.first rfl), h.scalar _ rfl]; rfl⟩
  | f2neg | f2dbl | f2sqr | f2inv | f2mulnr | f2conj => exact ⟨_, _, rfl, by rw [rdFp2_same (h.first rfl)]; rfl⟩
  | f2add | f2sub | f2mul => exact ⟨_, _, rfl, by rw [rdFp2_same (h.first rfl), rdFp2_same (h.second rfl)]; rfl⟩
  | f6neg | f6sqr | f6inv | f6mulnr => exact ⟨_, _, rfl, by rw [rdFp6_same (h.first rfl)]; rfl⟩
  | f6add | f6sub | f6mul => exact ⟨_, _, rfl, by rw [rdFp6_same (h.first rfl), rdFp6_same (h.second rfl)]; rfl⟩
  | f6mul1 => exact ⟨_, _, rfl, by rw [rdFp6_same (h.first rfl), rdFp2_same (h.second rfl)]; rfl⟩
  | f6mul01 _ _ b =>
    have hb : SameWords b.toNat 4 s t := h.second rfl
    exact ⟨_, _, rfl, by
      rw [rdFp6_same (h.first rfl), rdFp2_same (hb.start (by omega)), rdFp2_same (hb.part 2 le_rfl)]; rfl⟩
  | f12sqr | f12inv | f12conj => exact ⟨_, _, rfl, by rw [rdFp12_same (h.first rfl)]; rfl⟩
  | f12add | f12sub | f12mul =>
    exact ⟨_, _, rfl, by rw [rdFp12_same (h.first rfl), rdFp12_same (h.second rfl)]; rfl⟩
  | f12mul014 _ _ b =>
    have hb : SameWords b.toNat 6 s t := h.second rfl
    exact ⟨_, _, rfl, by
      rw [rdFp12_same (h.first rfl), rdFp2_same (hb.start (by omega)), rdFp2_same (hb.part 2 (by omega)),
        rdFp2_same (hb.part 4 le_rfl)]; rfl⟩
  | g2dbl | g2neg => exact ⟨_, _, rfl, by rw [rdG2_same (h.first rfl)]; rfl⟩
  | g2add | g2sub => exact ⟨_, _, rfl, by rw [rdG2_same (h.first rfl), rdG2_same (h.second rfl)]; rfl⟩
  | g2addm => exact ⟨_, _, rfl, by rw [rdG2_same (h.first rfl), rdAff_same (h.second rfl)]; rfl⟩
  | g2smul | g2smulw => exact ⟨_, _, rfl, by rw [rdG2_same (h.first rfl), h.scalar _ rfl]; rfl⟩

end Sys2Proof.Proofs
end

section
/-! SUPPORT. Agreement on what has been written (spec/70_reset_and_hazards.md R343), register by register, and the updates
of the state that keep it. -/

namespace Sys2Proof.Proofs

open Sys2Proof Sys2Proof.Machine Sys2Proof.Laws

/-! ## Agreement of wide registers on their marked bus words (R73, R74) -/

/-- x and y have every marked bus word in common. -/
def LanesAgree {m n : Nat} (marks : BitVec m) (x y : BitVec n) : Prop :=
  ∀ j, j < m → marks.getLsbD j = true → getLane x j = getLane y j

theorem eq_of_getLane_eq {m : Nat} {x y : BitVec (32 * m)} (h : ∀ j, j < m → getLane x j = getLane y j) : x = y := by
  apply BitVec.eq_of_getLsbD_eq
  intro i hi
  have hlane : 32 * m - 32 - 32 * (m - 1 - i / 32) + i % 32 = i := by omega
  have hbit := congrArg (fun v => v.getLsbD (i % 32)) (h (m - 1 - i / 32) (by omega))
  simpa only [getLsbD_getLane_of_lt _ _ (Nat.mod_lt i (by omega)), hlane] using hbit

theorem eq_of_lanesAgree_allOnes {m : Nat} {x y : BitVec (32 * m)} (h : LanesAgree (BitVec.allOnes m) x y) : x = y :=
  eq_of_getLane_eq fun j hj => h j hj (by simp [hj])

theorem getLsbD_markLane {m : Nat} (marks : BitVec m) (j i : Nat) :
    (markLane marks j).getLsbD i = (marks.getLsbD i || (decide (j < m) && decide (j = i))) := by
  rw [markLane, BitVec.getLsbD_or, BitVec.getLsbD_twoPow]

/-- A bus word written into both is common to both. -/
theorem lanesAgree_setLane {m j : Nat} {marks : BitVec m} {x y : BitVec (32 * m)} (v : Word32) (hj : j < m)
    (h : LanesAgree marks x y) : LanesAgree (markLane marks j) (setLane x j v) (setLane y j v) := by
  intro i hi hmark
  by_cases hij : j = i
  · subst hij
    rw [getLane_setLane_self _ _ _ (by omega), getLane_setLane_self _ _ _ (by omega)]
  · rw [getLane_setLane_other _ _ _ _ hij (by omega) (by omega),
      getLane_setLane_other _ _ _ _ hij (by omega) (by omega)]
    exact h i hi (by simpa [getLsbD_markLane, hij] using hmark)

/-! ## Agreement of register files -/

/-- Two files of wide registers agree on their marked bus words. -/
def FilesAgree {N m n : Nat} (marks : Vector (BitVec m) N) (x y : Vector (BitVec n) N) : Prop :=
  ∀ k, k < N → LanesAgree (marks[k]?.getD 0) (x[k]?.getD 0) (y[k]?.getD 0)

theorem getD_setIfInBounds {α : Type} {N : Nat} (x : Vector α N) (a d : α) {i k : Nat} (hk : k < N) :
    (x.setIfInBounds i a)[k]?.getD d = if i = k then a else x[k]?.getD d := by
  rw [Vector.getElem?_setIfInBounds]
  split
  · next hik => rw [if_pos (hik ▸ hk), Option.getD_some]
  · rfl

/-- Agreement is kept when register i gets agreeing contents in both files. -/
theorem filesAgree_set {N m n : Nat} {marks : Vector (BitVec m) N} {x y : Vector (BitVec n) N} (i : Nat)
    {a : BitVec m} {u v : BitVec n} (h : FilesAgree marks x y) (hi : LanesAgree a u v) :
    FilesAgree (marks.setIfInBounds i a) (x.setIfInBounds i u) (y.setIfInBounds i v) := by
  intro k hk
  rw [getD_setIfInBounds _ _ _ hk, getD_setIfInBounds _ _ _ hk, getD_setIfInBounds _ _ _ hk]
  split
  · exact hi
  · exact h k hk

/-- A register all of whose bus words are marked is the same in both files; past the file both read 0. -/
theorem getD_eq_of_written {N m : Nat} {marks : Vector (BitVec m) N} {x y : Vector (BitVec (32 * m)) N} {k : Nat}
    (h : FilesAgree marks x y) (hk : (marks[k]?.getD 0 == BitVec.allOnes m) = true) :
    x[k]?.getD 0 = y[k]?.getD 0 := by
  by_cases hlt : k < N
  · have hlanes := h k hlt
    rw [eq_of_beq hk] at hlanes
    exact eq_of_lanesAgree_allOnes hlanes
  · simp [Vector.getElem?_eq_none (Nat.not_lt.1 hlt)]

/-! ## Agreement of states -/

/-- `AgreeOnWritten`, with W and S as two register files. -/
theorem agreeOnWritten_iff {s t : State} :
    AgreeOnWritten s t ↔
      t = { s with w := t.w, sc := t.sc } ∧ FilesAgree s.wInit s.w t.w ∧ FilesAgree s.sInit s.sc t.sc :=
  and_congr_right' (and_congr ⟨fun h i hi j hj => h i j hi hj, fun h i j hi hj => h i hi j hj⟩
    ⟨fun h k hk j hj => h k j hk hj, fun h k j hk hj => h k hk j hj⟩)

theorem agreeOnWritten_refl (s : State) : AgreeOnWritten s s :=
  ⟨rfl, fun _ _ _ _ _ => rfl, fun _ _ _ _ _ => rfl⟩

theorem readW_eq_of_written {s t : State} (h : AgreeOnWritten s t) {i : Nat} (hi : s.wWritten i = true) :
    s.readW i = t.readW i := getD_eq_of_written (m := 12) (agreeOnWritten_iff.1 h).2.1 hi

theorem readS_eq_of_written {s t : State} (h : AgreeOnWritten s t) {k : Nat} (hk : s.sWritten k = true) :
    s.sc[k]?.getD 0 = t.sc[k]?.getD 0 := getD_eq_of_written (m := 32) (agreeOnWritten_iff.1 h).2.2 hk

/-- An update that neither reads nor writes W, S and their marks. -/
structure SparesRegisters (f : State → State) : Prop where
  commutes : ∀ s w sc, f { s with w := w, sc := sc } = { f s with w := w, sc := sc } := by intros; rfl
  wInit : ∀ s, (f s).wInit = s.wInit := by intros; rfl
  sInit : ∀ s, (f s).sInit = s.sInit := by intros; rfl

theorem SparesRegisters.w {f : State → State} (hf : SparesRegisters f) (s : State) : (f s).w = s.w :=
  (congrArg State.w (hf.commutes s s.w s.sc) :)

theorem SparesRegisters.sc {f : State → State} (hf : SparesRegisters f) (s : State) : (f s).sc = s.sc :=
  (congrArg State.sc (hf.commutes s s.w s.sc) :)

theorem SparesRegisters.agree {f : State → State} (hf : SparesRegisters f) {s t : State} (h : AgreeOnWritten s t) :
    AgreeOnWritten (f s) (f t) := by
  obtain ⟨ht, hw, hs⟩ := agreeOnWritten_iff.1 h
  refine agreeOnWritten_iff.2 ⟨?_, ?_, ?_⟩
  · rw [hf.w t, hf.sc t, ← hf.commutes, ← ht]
  · rwa [hf.wInit, hf.w, hf.w]
  · rwa [hf.sInit, hf.sc, hf.sc]

theorem writeW_agree {s t : State} (i : Nat) (v : Word) (h : AgreeOnWritten s t) :
    AgreeOnWritten (s.writeW i v) (t.writeW i v) := by
  obtain ⟨ht, hw, hs⟩ := agreeOnWritten_iff.1 h
  refine agreeOnWritten_iff.2 ⟨?_, filesAgree_set i hw fun _ _ _ => rfl, hs⟩
  rw [ht]
  rfl

theorem writeWords_agree {s t : State} (b : Nat) (ws : List Word) (h : AgreeOnWritten s t) :
    AgreeOnWritten (s.writeWords b ws) (t.writeWords b ws) := by
  induction ws generalizing s t b with
  | nil => exact h
  | cons v vs ih => exact ih (b + 1) (writeW_agree b v h)

theorem pokeW_agree {s t : State} {i j : Nat} (v : Word32) (hi : i < 256) (hj : j < 12) (h : AgreeOnWritten s t) :
    AgreeOnWritten (s.pokeW i j v) (t.pokeW i j v) := by
  obtain ⟨ht, hw, hs⟩ := agreeOnWritten_iff.1 h
  refine agreeOnWritten_iff.2 ⟨?_, filesAgree_set i hw (lanesAgree_setLane (m := 12) v hj (hw i hi)), hs⟩
  rw [ht]
  rfl

theorem pokeS_agree {s t : State} {k j : Nat} (v : Word32) (hk : k < 4) (hj : j < 32) (h : AgreeOnWritten s t) :
    AgreeOnWritten (s.pokeS k j v) (t.pokeS k j v) := by
  obtain ⟨ht, hw, hs⟩ := agreeOnWritten_iff.1 h
  refine agreeOnWritten_iff.2 ⟨?_, hw, filesAgree_set k hs (lanesAgree_setLane (m := 32) v hj (hs k hk))⟩
  rw [ht]
  rfl

end Sys2Proof.Proofs
end

section
/-! SUPPORT. Non-interference of the step of spec/70_reset_and_hazards.md R343: agreeing states are stopped alike, and a
step that is not stopped reads only what they have in common. -/

namespace Sys2Proof.Proofs

open Sys2Proof Sys2Proof.Machine Sys2Proof.Laws

/-! ## What agreeing states share -/

section Shared

variable {s t : State} (h : AgreeOnWritten s t)
include h

theorem script_of_agree : t.script = s.script := by rw [h.1]
theorem busy_of_agree : t.busy = s.busy := by rw [h.1]
theorem pc_of_agree : t.pc = s.pc := by rw [h.1]
theorem fetch_of_agree : t.fetch = s.fetch := by rw [h.1]; rfl
theorem wWritten_of_agree (i : Nat) : t.wWritten i = s.wWritten i := by rw [h.1]; rfl
theorem sWritten_of_agree (k : Nat) : t.sWritten k = s.sWritten k := by rw [h.1]; rfl

/-- A written word is canonical in both states or in neither. -/
theorem canonical_of_agree {i : Nat} (hi : s.wWritten i = true) : t.canonical i = s.canonical i := by
  rw [State.canonical, State.canonical, readW_eq_of_written h hi]

/-! ## The location a step is stopped at -/

theorem visitSources_of_agree (canon : Bool) (js : List Nat) : visitSources canon t js = visitSources canon s js := by
  induction js with
  | nil => rfl
  | cons i is ih =>
    cases hw : s.wWritten i with
    | false => simp only [visitSources, wWritten_of_agree h, hw, Bool.not_false, if_true]
    | true => simp only [visitSources, wWritten_of_agree h, canonical_of_agree h hw, ih]

theorem commandUninit_of_agree (i : Instr) : commandUninit i t = commandUninit i s := by
  simp only [commandUninit, visitSources_of_agree h, sWritten_of_agree h]

theorem coreUninit_of_agree : coreUninit t = coreUninit s := by
  simp only [coreUninit, busy_of_agree h, fetch_of_agree h, pc_of_agree h, commandUninit_of_agree h]

theorem readUninit_of_agree (n : Nat) (off : Offset) : readUninit n off t = readUninit n off s := by
  simp only [readUninit, busy_of_agree h, wWritten_of_agree h, sWritten_of_agree h]

theorem stepUninit_of_agree : stepUninit t = stepUninit s := by
  simp only [stepUninit, script_of_agree h, coreUninit_of_agree h, readUninit_of_agree h]

end Shared

/-! ## The schedule is no part of what a core step reads -/

theorem visitSources_setScript (canon : Bool) (s : State) (l : List Action) (js : List Nat) :
    visitSources canon { s with script := l } js = visitSources canon s js := by
  induction js with
  | nil => rfl
  | cons i is ih => rw [visitSources, visitSources, ih]; rfl

theorem coreUninit_setScript (s : State) (l : List Action) : coreUninit { s with script := l } = coreUninit s := by
  simp only [coreUninit, commandUninit, visitSources_setScript]
  rfl

/-! ## Updates that spare the registers -/

theorem setScript_spares (l : List Action) : SparesRegisters fun s => { s with script := l } := {}

theorem setRdata_spares (v : Word32) : SparesRegisters fun s => { s with rdata := some v } := {}

theorem setEntry_spares (v : CmdAddr) : SparesRegisters fun s => { s with entry := v } := {}

theorem writeCmd_spares (a : Nat) (v : Word32) : SparesRegisters fun s => { s with cmd := s.cmd.write a v } := {}

theorem setCtrl_spares (b r : Bool) : SparesRegisters fun s => { s with irqEn := b, accerr := s.accerr || r } := {}

theorem setIrqEn_spares (b : Bool) : SparesRegisters fun s => { s with irqEn := b } := {}

theorem writeStatus_spares (v : Word32) : SparesRegisters (writeStatus v) := {}

theorem refuseAccess_spares : SparesRegisters refuseAccess := {}

theorem startRun_spares : SparesRegisters startRun := {}

theorem endHalt_spares : SparesRegisters endHalt := {}

theorem endError_spares (e : ErrCode) (a : CmdAddr) (c : Word32) : SparesRegisters (endError e a c) := {}

theorem setPc_spares (a : CmdAddr) : SparesRegisters fun s => { s with pc := a } := {}

theorem advance_agree (c : Word32) {s t : State} (h : AgreeOnWritten s t) :
    AgreeOnWritten (advance c s) (advance c t) := by
  unfold advance
  rw [pc_of_agree h]
  split
  · exact (endError_spares _ _ _).agree h
  · exact (setPc_spares _).agree h

/-! ## Core steps -/

/-- The outcomes are next states that agree, or one fault. -/
inductive OutcomesAgree : Host.Outcome State Fault Refusal → Host.Outcome State Fault Refusal → Prop
  | next {s t : State} (h : AgreeOnWritten s t) : OutcomesAgree (.next s) (.next t)
  | fault (f : Fault) : OutcomesAgree (.fault f) (.fault f)

section Command

variable {i : Instr} {s t : State} (h : AgreeOnWritten s t) (hwf : i.wellFormed = true)
  (hu : commandUninit i s = none)
include h hwf hu

/-- The visit of a command that is not stopped decides the canonical check, in the same way in both states. -/
theorem sourcesCanonical_of_agree (hr : rangesOk i = true) : sourcesCanonical i t = sourcesCanonical i s := by
  have hvt := visitSources_of_agree h (checksCanonical i) (sourceIndices i)
  cases hv : visitSources (checksCanonical i) s (sourceIndices i) with
  | unwritten j => rw [commandUninit_unwritten hwf hr hv] at hu; cases hu
  | stopped =>
    rw [Bool.eq_false_of_not_eq_true (not_sourcesCanonical_of_stopped (hvt.trans hv)),
      Bool.eq_false_of_not_eq_true (not_sourcesCanonical_of_stopped hv)]
  | complete => rw [sourcesCanonical_of_complete (hvt.trans hv), sourcesCanonical_of_complete hv]

theorem check_of_agree : check i t = check i s := by
  by_cases hr : rangesOk i = true
  · rw [check, check, sourcesCanonical_of_agree h hwf hu hr]
  · rw [check_outOfRange hwf hr, check_outOfRange hwf hr]

/-- A command that passes the check and is not stopped reads only what has been written. -/
theorem sameSources_of_agree (hc : check i s = none) : SameSources i s t := by
  obtain ⟨-, hr, hcan⟩ := (check_eq_none_iff i s).1 hc
  have hv : visitSources (checksCanonical i) s (sourceIndices i) = .complete := by
    cases hv : visitSources (checksCanonical i) s (sourceIndices i) with
    | unwritten j => rw [commandUninit_unwritten hwf hr hv] at hu; cases hu
    | stopped => exact absurd hcan (not_sourcesCanonical_of_stopped hv)
    | complete => rfl
  refine ⟨fun o ho j hj => ?_, fun k hk => ?_⟩
  · have hmem : o.1.toNat + j ∈ sourceIndices i := (mem_sourceIndices i _).2 ⟨o, ho, by omega, by omega⟩
    exact readW_eq_of_written h (visitSources_complete hv _ hmem).1
  · cases hw : s.sWritten k.toNat with
    | true => rw [← getD_sc, ← getD_sc, readS_eq_of_written h hw]
    | false => rw [commandUninit_scalar hwf hr hv hk hw] at hu; cases hu

theorem exec_agrees : OutcomesAgree (exec i s) (exec i t) := by
  by_cases hi : i = .halt
  · rw [hi, exec_halt, exec_halt]
    exact .next (endHalt_spares.agree h)
  · have hcheck := check_of_agree h hwf hu
    cases hc : check i s with
    | some e =>
      rw [raises_of_check hc, raises_of_check (hcheck.trans hc), pc_of_agree h]
      exact .next ((endError_spares e s.pc (encode i)).agree h)
    | none =>
      obtain ⟨rd, ws, hs, ht⟩ := exec_sameResult hi (sameSources_of_agree h hwf hu hc)
      rw [hs, ht, command, command, hcheck, hc]
      exact .next (advance_agree _ (writeWords_agree _ _ h))

end Command

theorem coreStep_agrees {s t : State} (h : AgreeOnWritten s t) (hu : coreUninit s = none) :
    OutcomesAgree (coreStep s) (coreStep t) := by
  have hbusy := busy_of_agree h
  have hfetch := fetch_of_agree h
  rcases coreStep_cases s with ⟨hb, hn⟩ | ⟨hb, hf, hn⟩ | ⟨w, e, hb, hf, hd, hn⟩ | ⟨w, i, hb, hf, hd, hn⟩
  · rw [hn, coreStep_idle (hbusy.trans hb)]
    exact .next h
  · rw [hn, coreStep_unwritten (hbusy.trans hb) (hfetch.trans hf), pc_of_agree h]
    exact .fault _
  · rw [hn, coreStep_undecodable (hbusy.trans hb) (hfetch.trans hf) hd, pc_of_agree h]
    exact .next ((endError_spares _ _ _).agree h)
  · rw [hn, coreStep_decoded (hbusy.trans hb) (hfetch.trans hf) hd]
    rw [coreUninit_decoded hb hf hd] at hu
    exact exec_agrees h (encode_of_decode hd).2 hu

/-! ## Bus transactions -/

/-- Both answers are faults, and the same, or neither is and they are related by R. -/
inductive AnswersAgree {α : Type} (R : α → α → Prop) : Except Fault α → Except Fault α → Prop
  | ok {a b : α} (h : R a b) : AnswersAgree R (.ok a) (.ok b)
  | error (f : Fault) : AnswersAgree R (.error f) (.error f)

/-- A read returns the same word in both states, and leaves states that agree. -/
def SameReads (a b : Word32 × State) : Prop := a.1 = b.1 ∧ AgreeOnWritten a.2 b.2

/-- What is locked while busy is refused in both states, or answered in both (R78). -/
theorem lockedRead_agrees {s t : State} {x y : Except Fault (Word32 × State)} (h : AgreeOnWritten s t)
    (hidle : s.busy = false → AnswersAgree SameReads x y) :
    AnswersAgree SameReads (if s.busy then .ok (0, refuseAccess s) else x)
      (if t.busy then .ok (0, refuseAccess t) else y) := by
  rw [busy_of_agree h]
  cases hb : s.busy with
  | true => exact .ok ⟨rfl, refuseAccess_spares.agree h⟩
  | false => exact hidle hb

theorem lockedWrite_agree {s t u v : State} (h : AgreeOnWritten s t) (huv : AgreeOnWritten u v) :
    AgreeOnWritten (if s.busy then refuseAccess s else u) (if t.busy then refuseAccess t else v) := by
  rw [busy_of_agree h]
  split
  · exact refuseAccess_spares.agree h
  · exact huv

/-- A served read that is not stopped returns bits of what has been written. -/
theorem written_of_readUninit_none {n : Nat} {off : Offset} {s : State} {l : Storage} (hok : accessOk n off = true)
    (hidle : s.busy = false) (hu : readUninit n off s = none) (hl : HostReads off l) : Written s l := by
  obtain ⟨rfl, haligned⟩ := accessOk_iff.1 hok
  by_contra hnot
  rw [readUninit_of_reads haligned hidle hl hnot] at hu
  cases hu

theorem busRead_agrees {n : Nat} {off : Offset} {s t : State} (h : AgreeOnWritten s t)
    (hu : readUninit n off s = none) : AnswersAgree SameReads (busRead n off s) (busRead n off t) := by
  have hrefused : SameReads (0, refuseAccess s) (0, refuseAccess t) := ⟨rfl, refuseAccess_spares.agree h⟩
  obtain ⟨w, sc, rfl⟩ : ∃ w sc, t = { s with w := w, sc := sc } := ⟨_, _, h.1⟩
  unfold busRead
  cases hok : accessOk n off with
  | false => exact .ok hrefused
  | true =>
    have hwritten (hidle : s.busy = false) {l : Storage} (hl : HostReads off l) : Written s l :=
      written_of_readUninit_none hok hidle hu hl
    cases hloc : locate off with
    | id | version | status | ctrl | pc | errpc | errcmd => exact .ok ⟨rfl, h⟩
    | reserved => exact .ok hrefused
    | entry => exact lockedRead_agrees h fun _ => .ok ⟨rfl, h⟩
    | cmd a =>
      refine lockedRead_agrees h fun _ => ?_
      dsimp only
      cases s.cmd.read a with
      | none => exact .error _
      | some v => exact .ok ⟨rfl, h⟩
    | w i j =>
      refine lockedRead_agrees h fun hidle => .ok ⟨?_, h⟩
      exact congrArg (getLane · j) (readW_eq_of_written h (hwritten hidle (.inl ⟨i, j, rfl, hloc⟩)))
    | s k j =>
      refine lockedRead_agrees h fun hidle => .ok ⟨?_, h⟩
      exact congrArg (getLane · j) (readS_eq_of_written h (hwritten hidle (.inr ⟨k, j, rfl, hloc⟩)))

theorem readStep_agrees {n : Nat} {off : Offset} {s t : State} (h : AgreeOnWritten s t)
    (hu : readUninit n off s = none) : OutcomesAgree (readStep n off s) (readStep n off t) := by
  have hread := busRead_agrees h hu
  unfold readStep
  revert hread
  generalize busRead n off s = a, busRead n off t = b
  rintro (@⟨⟨v, u⟩, ⟨v', u'⟩, hv, hst⟩ | f)
  · obtain rfl : v = v' := hv
    exact .next ((setRdata_spares _).agree hst)
  · exact .fault f

theorem abortRun_agrees {s t : State} (h : AgreeOnWritten s t) :
    AnswersAgree AgreeOnWritten (abortRun s) (abortRun t) := by
  have hfetch := fetch_of_agree h
  cases hf : s.fetch with
  | none =>
    rw [abortRun_unwritten hf, abortRun_unwritten (hfetch.trans hf), pc_of_agree h]
    exact .error _
  | some w =>
    rw [abortRun_written hf, abortRun_written (hfetch.trans hf), pc_of_agree h]
    exact .ok ((endError_spares _ _ _).agree h)

theorem writeCtrl_agrees {s t : State} (v : Word32) (h : AgreeOnWritten s t) :
    AnswersAgree AgreeOnWritten (writeCtrl v s) (writeCtrl v t) := by
  have hbusy := busy_of_agree h
  cases hb : s.busy with
  | true =>
    have hctrl := (setCtrl_spares (v.getLsbD 2) (v.getLsbD 0)).agree h
    rw [writeCtrl_busy hb, writeCtrl_busy (hbusy.trans hb)]
    split
    · exact abortRun_agrees hctrl
    · exact .ok hctrl
  | false =>
    have hirq := (setIrqEn_spares (v.getLsbD 2)).agree h
    cases hstart : v.getLsbD 0 with
    | true =>
      rw [writeCtrl_idle_start hb hstart, writeCtrl_idle_start (hbusy.trans hb) hstart]
      exact .ok (startRun_spares.agree hirq)
    | false =>
      rw [writeCtrl_idle_noStart hb hstart, writeCtrl_idle_noStart (hbusy.trans hb) hstart]
      exact .ok hirq

theorem busWrite_agrees {s t : State} (n : Nat) (off : Offset) (v : Word32) (h : AgreeOnWritten s t) :
    AnswersAgree AgreeOnWritten (busWrite n off v s) (busWrite n off v t) := by
  have hrefused := refuseAccess_spares.agree h
  unfold busWrite
  split
  · cases hloc : locate off with
    | id | version | pc | errpc | errcmd => exact .ok h
    | status => exact .ok ((writeStatus_spares v).agree h)
    | ctrl => exact writeCtrl_agrees v h
    | reserved => exact .ok hrefused
    | entry => exact .ok (lockedWrite_agree h ((setEntry_spares _).agree h))
    | cmd a => exact .ok (lockedWrite_agree h ((writeCmd_spares a v).agree h))
    | w i j =>
      obtain ⟨hi, hj⟩ := locate_w_lt hloc
      exact .ok (lockedWrite_agree h (pokeW_agree v hi hj h))
    | s k j =>
      obtain ⟨hk, hj⟩ := locate_s_lt hloc
      exact .ok (lockedWrite_agree h (pokeS_agree v hk hj h))
  · exact .ok hrefused

theorem writeStep_agrees {s t : State} (n : Nat) (off : Offset) (v : Word32) (h : AgreeOnWritten s t) :
    OutcomesAgree (writeStep n off v s) (writeStep n off v t) := by
  have hwrite := busWrite_agrees n off v h
  unfold writeStep
  revert hwrite
  generalize busWrite n off v s = a, busWrite n off v t = b
  rintro (hst | f)
  · exact .next hst
  · exact .fault f

/-! ## Steps -/

/-- Reset leaves nothing of the two states but the schedule. -/
theorem resetPulse_agree {s t : State} (h : AgreeOnWritten s t) : AgreeOnWritten (resetPulse s) (resetPulse t) := by
  rw [resetPulse, resetPulse, script_of_agree h]
  exact agreeOnWritten_refl _

theorem step_agrees {s t : State} (h : AgreeOnWritten s t) (hu : stepUninit s = none) :
    OutcomesAgree (step s) (step t) := by
  have hscript := script_of_agree h
  cases hs : s.script with
  | nil =>
    rw [stepUninit_core (.inl hs)] at hu
    rw [step_unscheduled hs, step_unscheduled (hscript.trans hs)]
    exact coreStep_agrees h hu
  | cons a rest =>
    have hrest := (setScript_spares rest).agree h
    have hst := hscript.trans hs
    cases a with
    | core =>
      rw [stepUninit_core (.inr ⟨rest, hs⟩), ← coreUninit_setScript s rest] at hu
      rw [step_core hs, step_core hst]
      exact coreStep_agrees hrest hu
    | read n off =>
      rw [stepUninit_read hs] at hu
      rw [step_read hs, step_read hst]
      exact readStep_agrees hrest hu
    | write n off v =>
      rw [step_write hs, step_write hst]
      exact writeStep_agrees n off v hrest
    | reset =>
      rw [step_reset hs, step_reset hst]
      exact .next (resetPulse_agree hrest)

theorem checkedStep_agrees {s t : State} (h : AgreeOnWritten s t) : OutcomesAgree (checkedStep s) (checkedStep t) := by
  have hut := stepUninit_of_agree h
  cases hu : stepUninit s with
  | some l =>
    rw [checkedStep_stopped hu, checkedStep_stopped (hut.trans hu)]
    exact .fault _
  | none =>
    rw [checkedStep_free hu, checkedStep_free (hut.trans hu)]
    exact step_agrees h hu

/-- Settles O59: agreeing states are stopped alike, and otherwise step alike. -/
theorem unwrittenContentsDoNotMatter : Obligations.UnwrittenContentsDoNotMatter := by
  intro s t h
  have hagree := checkedStep_agrees h
  revert hagree
  generalize checkedStep s = x, checkedStep t = y
  rintro (h' | f)
  · exact h'
  · rfl

end Sys2Proof.Proofs
end
